-- ==== Sys2Proof/Word.lean ====
section
/-! DEFINITION. The bytes and words of the engine (00_scope.md R9) and the two byte orders a caller can declare
(43_decoder.md R138). -/

namespace Sys2Proof

/-- A byte, 8 bits, an unsigned integer 0..255 (R9). -/
abbrev Byte := BitVec 8

/-- A command word (R70), a 16-bit register, an index of a space (R50) or a character of SWIN (R56). -/
abbrev Word := BitVec 16

/-- D0's `byteorder`, bit E of DEC.INT's immediate (R73). -/
inductive ByteOrder where
  /-- E = 0: the first byte is the most significant. -/
  | big
  /-- E = 1: the first byte is the least significant. -/
  | little
  deriving DecidableEq, Repr

end Sys2Proof
end

