-- ==== Sys2Proof/Config.lean ====
section
/-! DEFINITION. What is fixed for the life of the hardware: the fixed parameters (00_scope.md R7), the type of the
open parameters (R8), and the free value of a buffer byte nothing has written (93_implementation_defined.md U1). -/

namespace Sys2Proof

namespace Config

/-! The fixed parameters of R7. -/

/-- FL_MOD, the modulus of both Fletcher sums. -/
@[simp] abbrev flMod : Nat := 255
/-- ADDR_MAX, the largest legal device address. -/
@[simp] abbrev addrMax : Nat := 31
/-- PORT_MAX, the largest legal port. -/
@[simp] abbrev portMax : Nat := 255
/-- TOKEN_MAX, the largest legal token. -/
@[simp] abbrev tokenMax : Nat := 255
/-- CMD_MAX, the largest legal payload length; it is also the number of bytes of CBUF (R26). -/
@[simp] abbrev cmdMax : Nat := 2047
/-- CHUNK_MAX, the largest number of payload bytes in one chunk. -/
@[simp] abbrev chunkMax : Nat := 128
/-- CHK_LEN, the check bytes after the header fields and after each chunk. -/
@[simp] abbrev chkLen : Nat := 2
/-- HDR_LEN, the header's length. -/
@[simp] abbrev hdrLen : Nat := 7
/-- GROUP, the largest reorder sub-group. -/
@[simp] abbrev group : Nat := 4
/-- PKT_MAX, the largest packet length (90_conflicts.md C1); it is also the number of bytes of PBUF (R27). -/
@[simp] abbrev pktMax : Nat := 2086
/-- The most chunks of one packet, ceil(CMD_MAX / CHUNK_MAX) (R109). -/
@[simp] abbrev maxChunks : Nat := 16

end Config

/-- The open parameters of R8. They are an argument of the model: State carries them, no step changes them, and a
statement about every state is a statement about every value of them. DESIGN CHOICE (log 2). -/
structure Params where
  /-- RESP_MAX, the capacity of RBUF in bytes. -/
  respMax : Nat
  /-- INT_MAX_BYTES, the largest `num_bytes` DEC.INT accepts. -/
  intMaxBytes : Nat
  /-- REPL_CHAR, what SWIN returns for a byte that is not ASCII. -/
  replChar : Word
  deriving DecidableEq, Repr

/-- The constraints R8 puts on the open parameters (a 16-bit REPL_CHAR is at most 0xFFFF by its type). -/
abbrev Params.wf (p : Params) : Prop :=
  1 ≤ p.respMax ∧ p.respMax ≤ 65535 ∧ 1 ≤ p.intMaxBytes ∧ p.intMaxBytes ≤ 63 ∧ 0x0080 ≤ p.replChar.toNat

/-- The three byte buffers (R26 to R28). -/
inductive BufferId where
  | cbuf
  | pbuf
  | rbuf
  deriving DecidableEq, Repr

/-- What a byte of a buffer holds that nothing has written since the last reset: one value per reset, buffer and
index, constrained by nothing (93_implementation_defined.md U1, "any value, one draw from 0..255 per byte per reset,
fixed until the byte is written"). Free value, log 3: it has no body. -/
opaque Config.unwrittenByte (reset : Nat) (buffer : BufferId) (index : Nat) : Byte

end Sys2Proof
end

