-- ==== Sys2Proof/Machine/Checksum.lean ====
section
/-! DEFINITION. The checksum arithmetic of 40_checksum.md: the reference function F16, the check-byte generator CHK,
CHECKBYTES (R90), and the rolling step of FL.ABSORB (R92). -/

namespace Sys2Proof.Machine

/-- The unreduced sums (lo, up) after the bytes, from the given sums: `lo = lo + d[i]; up = up + lo` (R90). -/
def f16Sums : Nat → Nat → List Byte → Nat × Nat
  | lo, up, [] => (lo, up)
  | lo, up, b :: d => f16Sums (lo + b.toNat) (up + (lo + b.toNat)) d

/-- F16(d) = (lower, upper), both sums from 0 on unbounded integers, reduced mod 255 at the end (R90). -/
def f16 (d : List Byte) : Nat × Nat :=
  ((f16Sums 0 0 d).1 % Config.flMod, (f16Sums 0 0 d).2 % Config.flMod)

/-- The first check byte of CHK(l, u), the one transmitted first (R90). -/
def chk0 (l u : Nat) : Nat := 255 - (l + u) % Config.flMod

/-- The second check byte of CHK(l, u) (R90). -/
def chk1 (l u : Nat) : Nat := 255 - (l + chk0 l u) % Config.flMod

/-- CHECKBYTES(d) = CHK(F16(d)), as the two bytes in the order they are transmitted (R90). -/
def checkBytes (d : List Byte) : List Byte :=
  [BitVec.ofNat 8 (chk0 (f16 d).1 (f16 d).2), BitVec.ofNat 8 (chk1 (f16 d).1 (f16 d).2)]

/-- FL.ABSORB's new `lower`: l1 = (lower + b) mod 255 (R92). -/
def absorbLower (lower b : Byte) : Nat := (lower.toNat + b.toNat) % Config.flMod

/-- FL.ABSORB's new `upper`, made with the new `lower`: u1 = (upper + l1) mod 255 (R92). -/
def absorbUpper (lower upper b : Byte) : Nat := (upper.toNat + absorbLower lower b) % Config.flMod

end Sys2Proof.Machine
end

