-- ==== Sys2Proof/Machine/Memory.lean ====
section
/-! DEFINITION. One byte buffer (10_state.md R26 to R28): the bytes written since reset, by index, and the operations
over it. A buffer in canonical form lists its entries by strictly rising index; an index that is not listed has not
been written and stands for no byte (log 3), so no entry can equal what an unlisted index holds. -/

namespace Sys2Proof.Machine

/-- The bytes of one buffer that have been written, as (index, byte). -/
abbrev Memory := List Host.Cell

/-- The canonical form: indices strictly rising. -/
abbrev Memory.wf (m : Memory) : Prop := List.Pairwise (fun x y => x.1 < y.1) m

/-- Every listed index is below the buffer's capacity. -/
abbrev Memory.within (m : Memory) (capacity : Nat) : Prop := ∀ c ∈ m, c.1 < capacity

/-- The byte at an index, none where nothing has been written. -/
def Memory.read? : Memory → Nat → Option Byte
  | [], _ => none
  | (a, b) :: m, i => if a = i then some b else Memory.read? m i

/-- A byte sequence laid out from index `i`. -/
def Memory.cells (i : Nat) : List Byte → Memory
  | [] => []
  | b :: bs => (i, b) :: Memory.cells (i + 1) bs

/-- MemWrite (00_scope.md R11): byte `k` of the sequence goes to index `i + k`; every other index keeps its byte. -/
def Memory.write (m : Memory) (i : Nat) (bs : List Byte) : Memory :=
  m.filter (fun c => c.1 < i) ++ Memory.cells i bs ++ m.filter (fun c => i + bs.length ≤ c.1)

end Sys2Proof.Machine
end

