-- ==== Sys2Proof/Machine/Params.lean ====
section
/-! DEFINITION. The open parameters' values in the state after reset. -/

namespace Sys2Proof.Machine

/-- INT_MAX_BYTES and REPL_CHAR are R8's defaults. R8 gives RESP_MAX no default; 64 is the one value under which every
vector of 95_test_vectors.md holds (they assume RESP_MAX ≥ 64, and V30 RESP_MAX = 64). DESIGN CHOICE (log 2). -/
def defaultParams : Params := { respMax := 64, intMaxBytes := 8, replChar := 0xFFFD#16 }

end Sys2Proof.Machine
end

