-- ==== Sys2Proof/Machine/State.lean ====
section
/-! DEFINITION. The state of the engine (10_state.md R20, the complete list), the events its host port takes, and the
state after reset (70_reset_and_hazards.md R196). -/

namespace Sys2Proof.Machine

/-- What the outside world does to the engine, one event at a time (00_scope.md R6, 20_memory.md R51, R52,
70_reset_and_hazards.md R195). A space id and an index are 16-bit numbers (log 6); a written value is a number, so that
a value wider than its element can be presented and turned away (log 7). -/
inductive HostEvent where
  /-- HostRead(space, idx). -/
  | read (space idx : Word)
  /-- HostWrite(space, idx, value). -/
  | write (space idx : Word) (value : Nat)
  /-- The reset input. -/
  | reset
  deriving DecidableEq, Repr

/-- Reasons the machine stops with a fault: there are none. The engine's faults are entries of its fault record and the
next operation executes normally (60_exceptions.md R170); it does not stop, lock up or need a reset (44_system.md R161).
Safe and unsafe do not arise: no value of this type exists (log 14). -/
inductive Fault where
  deriving DecidableEq, Repr

/-- Reasons an instruction has no meaning. -/
inductive Refusal where
  /-- Raised by an arm of exec that has no meaning yet; every arm has one, so nothing raises it. It would be safe. -/
  | notModelled (mnemonic : String)
  deriving DecidableEq, Repr

/-- The engine's state, field by field as R20 lists it, and after it the model's own fields. -/
structure State where
  /-- The running sum of the bytes, mod 255 (R21). -/
  lower : Byte
  /-- The running sum of `lower`, mod 255 (R21). -/
  upper : Byte
  /-- ADDRESS (R23). -/
  address : Word
  /-- PORT (R23). -/
  port : Word
  /-- TOKEN (R23). -/
  token : Word
  /-- FLAGS: bit 0 RESP_EXP, bit 1 PROPCR, bits 15:2 are 0 (R24). -/
  flags : Word
  /-- CMD_SIZE (R23). -/
  cmdSize : Word
  /-- PKT_LEN (R25). -/
  pktLen : Word
  /-- CBUF, indices 0..2046 (R26). -/
  cbuf : Memory
  /-- PBUF, indices 0..2085, the hidden bytes at PKT_LEN and beyond included (R27, R41). -/
  pbuf : Memory
  /-- RBUF, indices 0..RESP_MAX-1 (R28). -/
  rbuf : Memory
  /-- RESP_LEN (R29). -/
  respLen : Word
  /-- ARG_INDEX, the decoder's cursor (R30). -/
  argIndex : Word
  /-- DOPEN: a decode transaction is open (R31). -/
  dopen : Bool
  /-- RESULT, 8·INT_MAX_BYTES bits (R32), in a container of the widest it can be, 504 bits (log 9). -/
  result : BitVec 504
  /-- STR_OFF (R33). -/
  strOff : Word
  /-- STR_LEN (R33). -/
  strLen : Word
  /-- FAIL: the most recent command faulted (R34). -/
  fail : Bool
  /-- EANY: some fault since the last SYS.CLRERR or reset (R34). -/
  eany : Bool
  /-- ERR_CODE (R35). -/
  errCode : Byte
  /-- ERR_FIELD (R35). -/
  errField : Byte
  /-- ERR_VALUE (R35). -/
  errValue : BitVec 32
  /-- ERR_MIN (R35). -/
  errMin : BitVec 32
  /-- ERR_MAX (R35). -/
  errMax : BitVec 32
  /-- The model's own: the open parameters, which no step changes (log 2). -/
  params : Params
  /-- The model's own: the host events not yet served, the next one first (log 1). -/
  queue : List HostEvent
  /-- The model's own: what the access just served returned, if it was a read (log 8). -/
  answer : Option Nat
  /-- The model's own: how many reset events have been served, the draw number of the free bytes (log 3). -/
  resets : Nat
  /-- The model's own: U1's record that an operation read a byte nothing had written, kept to the end of the run
  (log 4). -/
  readOfUnwritten : Bool
  deriving DecidableEq, Repr

/-- The state right after the first reset: every register and flag 0, no byte of a buffer written (R196). The model's
own fields: the parameters of `defaultParams`, no event pending, no answer, draw number 0. -/
def State.reset : State where
  lower := 0
  upper := 0
  address := 0
  port := 0
  token := 0
  flags := 0
  cmdSize := 0
  pktLen := 0
  cbuf := []
  pbuf := []
  rbuf := []
  respLen := 0
  argIndex := 0
  dopen := false
  result := 0
  strOff := 0
  strLen := 0
  fail := false
  eany := false
  errCode := 0
  errField := 0
  errValue := 0
  errMin := 0
  errMax := 0
  params := defaultParams
  queue := []
  answer := none
  resets := 0
  readOfUnwritten := false

end Sys2Proof.Machine
end

