-- ==== Sys2Proof/Machine/Flags.lean ====
section
/-! DEFINITION. The flags and views of the engine: Z and the check-byte generator (40_checksum.md R93, R94), STATUS
(10_state.md R36), FLAGS as written (R24). -/

namespace Sys2Proof.Machine

/-- Z: both sums are 0 (R93). -/
def State.z (s : State) : Bool := decide (s.lower = 0#8) && decide (s.upper = 0#8)

/-- FL_CHK0, the first byte of CHK(lower, upper) (R94). -/
def State.flChk0 (s : State) : Nat := chk0 s.lower.toNat s.upper.toNat

/-- FL_CHK1, the second byte of CHK(lower, upper) (R94). -/
def State.flChk1 (s : State) : Nat := chk1 s.lower.toNat s.upper.toNat

/-- STATUS: Z at bit 0, DOPEN at 1, FAIL at 2, EANY at 3, 15:4 read 0 (R36). -/
def State.status (s : State) : Word :=
  0#12 ++ BitVec.ofBool s.eany ++ BitVec.ofBool s.fail ++ BitVec.ofBool s.dopen ++ BitVec.ofBool s.z

/-- What FLAGS takes of a written value: value[1:0] (R24, R52). -/
def flagsWritten (value : Word) : Word := value &&& 0x0003#16

/-- A command that completes leaves FAIL = 0 and the fault record as it was (44_system.md R162). -/
def State.complete (s : State) : State := { s with fail := false }

end Sys2Proof.Machine
end

