-- ==== Sys2Proof/Machine/Operands.lean ====
section
/-! DEFINITION. What a command takes its operands from (10_state.md R39): the bytes of a buffer (MemRead,
00_scope.md R11), integers in a byte order (43_decoder.md R138) and their signed image (R139), the fields of FLAGS
(10_state.md R24). -/

namespace Sys2Proof.Machine

/-- The buffer of that name. -/
def State.buffer (s : State) : BufferId → Memory
  | .cbuf => s.cbuf
  | .pbuf => s.pbuf
  | .rbuf => s.rbuf

/-- SPACE[i] (R11): the byte written there since reset, or the free value of that byte, the same at every read until
it is written (93_implementation_defined.md U1; log 3). -/
def State.byteAt (s : State) (b : BufferId) (i : Nat) : Byte :=
  (Memory.read? (s.buffer b) i).getD (Config.unwrittenByte s.resets b i)

/-- MemRead(SPACE, i, n) = [SPACE[i], ..., SPACE[i+n-1]] (R11). -/
def State.memRead (s : State) (b : BufferId) (i n : Nat) : List Byte :=
  (List.range n).map fun k => s.byteAt b (i + k)

/-- Every byte SPACE[i], ..., SPACE[i+n-1] has been written since reset. -/
def State.allWritten (s : State) (b : BufferId) (i n : Nat) : Bool :=
  (List.range n).all fun k => (Memory.read? (s.buffer b) (i + k)).isSome

/-- U1's record: an operation reads SPACE[i], ..., SPACE[i+n-1]. It marks no register of the engine (log 4). -/
def State.noteRead (s : State) (b : BufferId) (i n : Nat) : State :=
  { s with readOfUnwritten := s.readOfUnwritten || !s.allWritten b i n }

/-- RESP_EXP, FLAGS[0] (R24). -/
def State.respExp (s : State) : Bool := s.flags.getLsbD 0

/-- PROPCR, FLAGS[1] (R24). -/
def State.propcr (s : State) : Bool := s.flags.getLsbD 1

/-- be(s): be([]) = 0, be(s ++ [b]) = be(s)·256 + b (R11). -/
def be (d : List Byte) : Nat := d.foldl (fun v b => v * 256 + b.toNat) 0

/-- le(s): le([]) = 0, le([b] ++ s) = b + 256·le(s) (R11). -/
def le : List Byte → Nat
  | [] => 0
  | b :: d => b.toNat + 256 * le d

/-- The unsigned integer of the bytes in the declared byte order (R138). -/
def intOf : ByteOrder → List Byte → Nat
  | .big, d => be d
  | .little, d => le d

/-- signed_image(u, N) in 8·M bits: v = u when N = 0 or u < 2^(8N-1), v = u - 2^(8N) otherwise, and v in two's
complement in 8·M bits, which for a negative v is 2^(8M) - (2^(8N) - u) (R139). -/
def signedImage (m u n : Nat) : Nat :=
  if n = 0 ∨ u < 2 ^ (8 * n - 1) then u else 2 ^ (8 * m) - (2 ^ (8 * n) - u)

/-- What DEC.INT leaves in RESULT: zext(u), or signed_image(u, N) when signed (R139). -/
def resultImage (m : Nat) (signed : Bool) (u n : Nat) : Nat :=
  if signed then signedImage m u n else u

/-- RESP_LEN - ARG_INDEX, the bytes that remain (R137). Outside the invariant ARG_INDEX ≤ RESP_LEN of R42 it is 0
(log 11). -/
def State.remaining (s : State) : Nat := s.respLen.toNat - s.argIndex.toNat

end Sys2Proof.Machine
end

