-- ==== Sys2Proof/Machine/Ops.lean ====
section
/-! DEFINITION. The operations the commands and the host port share: raising a fault (60_exceptions.md R170 to R174,
the only exception there is), clearing the record (44_system.md R160), closing the decode transaction (10_state.md
R31). There is no return from a fault, because nothing is entered (R177). -/

namespace Sys2Proof.Machine

/-- The causes the engine records (R171). Code 4, AddressOutOfRange, belongs to the Settings Registry and is never
recorded, so it is no cause here. -/
inductive Cause where
  | validationError
  | insufficientData
  | outOfBounds
  | illegalCommand
  | badOperand
  | noTransaction
  | badAccess
  deriving DecidableEq, Repr

/-- The value of ERR_CODE (R171). -/
def Cause.code : Cause → Byte
  | .validationError => 1
  | .insufficientData => 2
  | .outOfBounds => 3
  | .illegalCommand => 5
  | .badOperand => 6
  | .noTransaction => 7
  | .badAccess => 8

/-- The fields a fault names (R172). -/
inductive ErrField where
  | address
  | port
  | token
  | responseExpected
  | cmdSize
  | numBytes
  | numArgBytes
  | offsetPlusLength
  | respLen
  | opcode
  | hostAccess
  | dopen
  deriving DecidableEq, Repr

/-- The value of ERR_FIELD (R172). -/
def ErrField.code : ErrField → Byte
  | .address => 1
  | .port => 2
  | .token => 3
  | .responseExpected => 4
  | .cmdSize => 5
  | .numBytes => 6
  | .numArgBytes => 7
  | .offsetPlusLength => 8
  | .respLen => 9
  | .opcode => 10
  | .hostAccess => 11
  | .dopen => 12

/-- `raise Fault(code, field, value, lo, hi)` (R173), all it does. `byCommand` says the fault was raised inside a CMD
write; a fault of any other host access leaves FAIL as it was. -/
def State.raise (s : State) (byCommand : Bool) (cause : Cause) (field : ErrField) (value lo hi : Nat) : State :=
  { s with
    errCode := cause.code
    errField := field.code
    errValue := BitVec.ofNat 32 value
    errMin := BitVec.ofNat 32 lo
    errMax := BitVec.ofNat 32 hi
    eany := true
    fail := byCommand || s.fail }

/-- The fault of a command (R173). -/
def State.raiseCommand (s : State) (cause : Cause) (field : ErrField) (value lo hi : Nat) : State :=
  s.raise true cause field value lo hi

/-- Executing an illegal word: Fault(IllegalCommand, OPCODE, w, 0, 0) and nothing else (R161). -/
def State.illegalCommand (s : State) (w : Word) : State := s.raiseCommand .illegalCommand .opcode w.toNat 0 0

/-- An illegal host access: Fault(BadAccess, HOST_ACCESS, space_id·65536 + idx, 0, 0) (20_memory.md R54). -/
def State.badAccess (s : State) (space idx : Word) : State :=
  s.raise false .badAccess .hostAccess (space.toNat * 65536 + idx.toNat) 0 0

/-- The fault record zeroed (R160). -/
def State.clearRecord (s : State) : State :=
  { s with eany := false, errCode := 0, errField := 0, errValue := 0, errMin := 0, errMax := 0 }

/-- Any write of RBUF or RESP_LEN closes the decode transaction (R31). -/
def State.closeTransaction (s : State) : State := { s with dopen := false }

/-- The fault NoTransaction (R137, R140): Fault(NoTransaction, DOPEN, 0, 1, 1). -/
def State.noTransaction (s : State) : State := s.raiseCommand .noTransaction .dopen 0 1 1

end Sys2Proof.Machine
end

