-- ==== Sys2Proof/Machine/Dec.lean ====
section
/-! DEFINITION. The meanings of the response decoder's commands: DEC.BEGIN, DEC.INT, DEC.ASCII (43_decoder.md R135 to
R143). -/

namespace Sys2Proof.Machine

/-- DEC.BEGIN's effect: cursor 0, results 0, the transaction open (R136). -/
def State.openTransaction (s : State) : State :=
  { s with argIndex := 0, result := 0, strOff := 0, strLen := 0, dopen := true }

/-- DEC.BEGIN (R136). -/
def execDecBegin (s : State) : Host.Outcome State Fault Refusal :=
  if s.params.respMax < s.respLen.toNat then
    .next (s.raiseCommand .badOperand .respLen s.respLen.toNat 0 s.params.respMax)
  else .next s.openTransaction.complete

/-- The cursor moved past n bytes. It never wraps: an advance that would pass RESP_LEN faults instead (R40). -/
def State.advance (s : State) (n : Nat) : State := { s with argIndex := BitVec.ofNat 16 (s.argIndex.toNat + n) }

/-- DEC.INT's effect: N bytes at the cursor, in the declared order and signedness, into RESULT (R137 to R139). -/
def State.readInt (s : State) (signed : Bool) (order : ByteOrder) (n : Nat) : State :=
  ({ s with
     result := BitVec.ofNat 504
       (resultImage s.params.intMaxBytes signed (intOf order (s.memRead .rbuf s.argIndex.toNat n)) n) } : State).advance n

/-- DEC.INT (R137): BadOperand, NoTransaction, InsufficientData in this order, or the read. -/
def execDecInt (signed : Bool) (order : ByteOrder) (n : Nat) (s : State) : Host.Outcome State Fault Refusal :=
  if s.params.intMaxBytes < n then
    .next (s.raiseCommand .badOperand .numBytes n 0 s.params.intMaxBytes)
  else if s.dopen = false then .next s.noTransaction
  else if s.remaining < n then
    .next (s.raiseCommand .insufficientData .numBytes n 0 s.remaining)
  else .next ((s.readInt signed order n).noteRead .rbuf s.argIndex.toNat n).complete

/-- The offset of the descriptor at the cursor (R83, R140). -/
def State.descOffset (s : State) : Nat := be (s.memRead .rbuf s.argIndex.toNat 2)

/-- The length of the W-byte descriptor at the cursor (R83, R140). -/
def State.descLength (s : State) (w : Nat) : Nat := be (s.memRead .rbuf (s.argIndex.toNat + 2) (w - 2))

/-- The descriptor was read and the cursor moved past it, before the bounds check (R140). -/
def State.afterDescriptor (s : State) (w : Nat) : State := (s.noteRead .rbuf s.argIndex.toNat w).advance w

/-- DEC.ASCII (R140): BadOperand, NoTransaction, InsufficientData, and OutOfBounds after the cursor moved, or the
string's offset and length. -/
def execDecAscii (w : Nat) (s : State) : Host.Outcome State Fault Refusal :=
  if w ≠ 3 ∧ w ≠ 4 then .next (s.raiseCommand .badOperand .numArgBytes w 3 4)
  else if s.dopen = false then .next s.noTransaction
  else if s.remaining < w then
    .next (s.raiseCommand .insufficientData .numArgBytes w 0 s.remaining)
  else if s.respLen.toNat < s.descOffset + s.descLength w then
    .next ((s.afterDescriptor w).raiseCommand .outOfBounds .offsetPlusLength (s.descOffset + s.descLength w) 0
      s.respLen.toNat)
  else
    .next ({ s.afterDescriptor w with
             strOff := BitVec.ofNat 16 s.descOffset, strLen := BitVec.ofNat 16 (s.descLength w) } : State).complete

end Sys2Proof.Machine
end

