-- ==== Sys2Proof/Machine/Reorder.lean ====
section
/-! DEFINITION. The byte-order reorder multiplexer, 42_reorder.md: REORDER as groups reversed (R125) and the
multiplexer's selection function SEL (R126). -/

namespace Sys2Proof.Machine

/-- REORDER(C): sub-groups of 4 from the start of the chunk, the bytes of each reversed, a short last one among its
own bytes (R125). -/
def reorder : List Byte → List Byte
  | a :: b :: c :: d :: rest => d :: c :: b :: a :: reorder rest
  | short => short.reverse

/-- SEL(L, j): the byte of the chunk that is transmitted at place j (R126). -/
def sel (len j : Nat) : Nat :=
  4 * (j / 4) + (min Config.group (len - 4 * (j / 4)) - 1 - j % 4)

/-- The transmitted chunk T: REORDER(C) in reorder mode, C otherwise (R79, R109). -/
def transmitted (propcr : Bool) (chunk : List Byte) : List Byte :=
  if propcr then reorder chunk else chunk

end Sys2Proof.Machine
end

