-- ==== Sys2Proof/Machine/Wire.lean ====
section
/-! DEFINITION. The packet on the wire, 30_encoding.md R77 to R81: its header, chunk records, whole and length, and the
reading of a packet back (R81, 41_framer.md R114), which no command does. -/

namespace Sys2Proof.Machine

/-- body_size(n): the length of the body for a payload of n bytes (R80, R107). -/
def bodySize (n : Nat) : Nat :=
  n / Config.chunkMax * 130 + (if n % Config.chunkMax > 0 then n % Config.chunkMax + Config.chkLen else 0)

/-- packet_len = 7 + body_size (R80). -/
def packetLen (n : Nat) : Nat := Config.hdrLen + bodySize n

/-- The number of chunks of a payload of n bytes, ceil(n/128) (R77). -/
def numChunks (n : Nat) : Nat := (n + 127) / Config.chunkMax

/-- CH0 to CH4 (R78, R108): payload length n, address a, response_expected r, port p, token t. -/
def headerFields (n a p t : Nat) (r : Bool) : List Byte :=
  [BitVec.ofNat 8 (((n / 256) <<< 3) ||| 0b001), BitVec.ofNat 8 (n % 256),
   BitVec.ofNat 8 (a ||| (if r then 0x80 else 0x00)), BitVec.ofNat 8 p, BitVec.ofNat 8 t]

/-- The header CH0 to CH6: the five fields and their check bytes (R78, R108). -/
def header (n a p t : Nat) (r : Bool) : List Byte :=
  headerFields n a p t r ++ checkBytes (headerFields n a p t r)

/-- The chunk record of a chunk: the transmitted bytes T and the check bytes of T (R79). -/
def chunkRecord (propcr : Bool) (chunk : List Byte) : List Byte :=
  transmitted propcr chunk ++ checkBytes (transmitted propcr chunk)

/-- Chunk k of a payload, P[128k .. min(128k+128, n)) (R77). -/
def chunkOf (payload : List Byte) (k : Nat) : List Byte :=
  (payload.drop (Config.chunkMax * k)).take Config.chunkMax

/-- The body: the chunk records in order of k = 0..ceil(n/128)-1 (R77). -/
def packetBody (propcr : Bool) (payload : List Byte) : List Byte :=
  (List.range (numChunks payload.length)).flatMap fun k => chunkRecord propcr (chunkOf payload k)

/-- The packet H ++ B of a payload (R77). -/
def packet (a p t : Nat) (r propcr : Bool) (payload : List Byte) : List Byte :=
  header payload.length a p t r ++ packetBody propcr payload

/-- The values ENC.RUN accepts (R106): what a packet can be built for. -/
def legalOperands (a p t : Nat) (r : Bool) (n : Nat) : Bool :=
  decide (a ≤ Config.addrMax) && decide (p ≤ Config.portMax) && decide (t ≤ Config.tokenMax) &&
    !(decide (a = 0) && r) && decide (n ≤ Config.cmdMax)

/-- A well-formed packet in the sense of R77: the packet of some legal operands and some payload. DEDUCED (log 18). -/
def IsPacket (bytes : List Byte) : Prop :=
  ∃ (a p t : Nat) (r propcr : Bool) (payload : List Byte),
    legalOperands a p t r payload.length = true ∧ bytes = packet a p t r propcr payload

/-- What a header says (R81). -/
structure Header where
  n : Nat
  a : Nat
  r : Bool
  p : Nat
  t : Nat
  deriving DecidableEq, Repr

/-- Header decode, the inverse of R78; none where the seven bytes are no well-formed header (R81). -/
def decodeHeader : List Byte → Option Header
  | [ch0, ch1, ch2, ch3, ch4, ch5, ch6] =>
    let n := ((ch0.toNat >>> 3) &&& 7) * 256 + ch1.toNat
    let a := ch2.toNat &&& 0x1F
    let r := ch2.toNat >>> 7 == 1
    if (ch0.toNat &&& 0xC7) = 0x01 ∧ (ch2.toNat &&& 0x60) = 0 ∧ ¬(a = 0 ∧ r = true) ∧
        f16 [ch0, ch1, ch2, ch3, ch4, ch5, ch6] = (0, 0) then
      some { n := n, a := a, r := r, p := ch3.toNat, t := ch4.toNat }
    else none
  | _ => none

/-- The payload read back from a body whose payload length is n (R114): the chunk records in order, each without its
two check bytes, and REORDER applied again in reorder mode. The first argument bounds the number of chunks. -/
def unframe (propcr : Bool) : Nat → Nat → List Byte → List Byte
  | 0, _, _ => []
  | k + 1, n, body =>
    transmitted propcr (body.take (min Config.chunkMax n)) ++
      unframe propcr k (n - min Config.chunkMax n) (body.drop (min Config.chunkMax n + Config.chkLen))

end Sys2Proof.Machine
end

