-- ==== Sys2Proof/Machine/Enc.lean ====
section
/-! DEFINITION. The meaning of ENC.RUN, the packet framer: validation, header, body and output (41_framer.md R105 to
R112). -/

namespace Sys2Proof.Machine

/-- Step 0: the first check that fails, in D0's order, as the fault's field, value, lo and hi (R106). -/
def State.encFault (s : State) : Option (ErrField × Nat × Nat × Nat) :=
  if Config.addrMax < s.address.toNat then some (.address, s.address.toNat, 0, Config.addrMax)
  else if Config.portMax < s.port.toNat then some (.port, s.port.toNat, 0, Config.portMax)
  else if Config.tokenMax < s.token.toNat then some (.token, s.token.toNat, 0, Config.tokenMax)
  else if s.address.toNat = 0 ∧ s.respExp = true then some (.responseExpected, 1, 0, 0)
  else if Config.cmdMax < s.cmdSize.toNat then some (.cmdSize, s.cmdSize.toNat, 0, Config.cmdMax)
  else none

/-- Step 2: CH0 to CH6 into PBUF[0..7) (R108). -/
def State.encHeader (s : State) (pbuf : Memory) : Memory :=
  pbuf.write 0 (header s.cmdSize.toNat s.address.toNat s.port.toNat s.token.toNat s.respExp)

/-- One turn of step 3's loop, for the chunk of L bytes at CBUF index i: T at PBUF[w..w+L), its check bytes after it
(R109). -/
def State.encChunk (s : State) (w i len : Nat) (pbuf : Memory) : Memory :=
  let t := transmitted s.propcr (s.memRead .cbuf i len)
  (pbuf.write w t).write (w + len) (checkBytes t)

/-- Step 3: the loop of R109 from write index w and read index i; its first argument bounds the turns. -/
def State.encBody (s : State) : Nat → Nat → Nat → Memory → Memory
  | 0, _, _, pbuf => pbuf
  | turns + 1, w, i, pbuf =>
    if i < s.cmdSize.toNat then
      let len := min Config.chunkMax (s.cmdSize.toNat - i)
      s.encBody turns (w + len + Config.chkLen) (i + len) (s.encChunk w i len pbuf)
    else pbuf

/-- Steps 1 to 4 on operands that passed validation: PBUF written, PKT_LEN <- 7 + body_size(n) (R107 to R110). -/
def State.encOutput (s : State) : State :=
  { s with
    pbuf := s.encBody Config.maxChunks Config.hdrLen 0 (s.encHeader s.pbuf)
    pktLen := BitVec.ofNat 16 (packetLen s.cmdSize.toNat) }

/-- ENC.RUN (R105 to R112). CBUF is read only after validation, as a whole the bytes CBUF[0..n) (R105). -/
def execEncRun (s : State) : Host.Outcome State Fault Refusal :=
  match s.encFault with
  | some (field, value, lo, hi) => .next (s.raiseCommand .validationError field value lo hi)
  | none => .next (s.encOutput.noteRead .cbuf 0 s.cmdSize.toNat).complete

end Sys2Proof.Machine
end

