-- ==== Sys2Proof/Machine/Fl.lean ====
section
/-! DEFINITION. The meanings of FL.INIT and FL.ABSORB (40_checksum.md R91, R92). -/

namespace Sys2Proof.Machine

/-- FL.INIT: lower <- 0, upper <- 0 (R91). -/
def execFlInit (s : State) : Host.Outcome State Fault Refusal :=
  .next ({ s with lower := 0, upper := 0 } : State).complete

/-- The two sums after one byte (R92). -/
def State.absorb (s : State) (b : Byte) : State :=
  { s with lower := BitVec.ofNat 8 (absorbLower s.lower b), upper := BitVec.ofNat 8 (absorbUpper s.lower s.upper b) }

/-- FL.ABSORB b (R92). -/
def execFlAbsorb (b : Byte) (s : State) : Host.Outcome State Fault Refusal := .next (s.absorb b).complete

end Sys2Proof.Machine
end

