-- ==== Sys2Proof/Machine/Sys.lean ====
section
/-! DEFINITION. The meaning of SYS.CLRERR (44_system.md R160). -/

namespace Sys2Proof.Machine

/-- SYS.CLRERR: the fault record is zeroed; the command completes, so FAIL is 0 (R160, R162). -/
def execSysClrErr (s : State) : Host.Outcome State Fault Refusal := .next s.clearRecord.complete

end Sys2Proof.Machine
end

