-- ==== Sys2Proof/Syntax.lean ====
section
/-! DEFINITION. The commands of 30_encoding.md R71, one constructor per row of spec/opcode_table.json. -/

namespace Sys2Proof

/-- A command. The operands are those of the immediate (R72 to R75); every other operand is a register the host
loaded beforehand (R39). -/
inductive Instr where
  /-- SYS.CLRERR: clear the fault record (R160). -/
  | sysClrErr
  /-- FL.INIT: start a checksum (R91). -/
  | flInit
  /-- FL.ABSORB b: absorb one byte (R92). -/
  | flAbsorb (b : Byte)
  /-- ENC.RUN: build a packet (R105). -/
  | encRun
  /-- DEC.BEGIN: open a decode transaction (R136). -/
  | decBegin
  /-- DEC.INT n, order, signed: read an integer argument (R137). -/
  | decInt (signed : Bool) (order : ByteOrder) (n : Nat)
  /-- DEC.ASCII w: read a string descriptor of w bytes (R140). -/
  | decAscii (w : Nat)
  deriving DecidableEq, Repr

end Sys2Proof
end

