-- ==== Sys2Proof/Machine/Dispatch.lean ====
section
/-! DEFINITION. Which meaning each command has: the dispatch of 30_encoding.md R71. -/

namespace Sys2Proof.Machine

def exec (i : Instr) (s : State) : Host.Outcome State Fault Refusal :=
  match i with
  | .sysClrErr => Sys2Proof.Machine.execSysClrErr s
  | .flInit => Sys2Proof.Machine.execFlInit s
  | .flAbsorb b => Sys2Proof.Machine.execFlAbsorb b s
  | .encRun => Sys2Proof.Machine.execEncRun s
  | .decBegin => Sys2Proof.Machine.execDecBegin s
  | .decInt signed order n => Sys2Proof.Machine.execDecInt signed order n s
  | .decAscii w => Sys2Proof.Machine.execDecAscii w s

end Sys2Proof.Machine
end

