-- ==== Sys2Proof/WellFormed.lean ====
section
/-! DEFINITION. Which terms of Instr a command word can carry: the ranges of the immediate's numbers
(30_encoding.md R73, R74). Whether a number is one the command accepts (N ≤ INT_MAX_BYTES, W = 3 or 4) is a check of
the command, not of the encoding. -/

namespace Sys2Proof

/-- N is 0..63 and W is 0..255; nothing else of an instruction can be out of range. -/
def Instr.wf : Instr → Bool
  | .sysClrErr => true
  | .flInit => true
  | .flAbsorb _ => true
  | .encRun => true
  | .decBegin => true
  | .decInt _ _ n => decide (n ≤ 63)
  | .decAscii w => decide (w ≤ 255)

end Sys2Proof
end

