-- ==== Sys2Proof/Decode.lean ====
section
/-! DEFINITION. The command word (30_encoding.md R70 to R76): decoding, total on every word and rejecting by name;
the opcode table as rows of mask and match; and the encoder. -/

namespace Sys2Proof

/-- Why a word is illegal (R76). -/
inductive DecodeError where
  /-- The opcode is not in the map of R71. -/
  | unassignedOpcode (op : Byte)
  /-- The command takes no immediate and imm8 is not 0x00 (R75). -/
  | nonzeroImmediate (op imm : Byte)
  deriving DecidableEq, Repr

/-- Bits 15:8 (R70). -/
def opcodeOf (w : Word) : Byte := w.extractLsb' 8 8

/-- Bits 7:0 (R70). -/
def immOf (w : Word) : Byte := w.extractLsb' 0 8

/-- A command that takes no immediate: imm8 must be 0x00 (R75). -/
def decodeNoImm (op imm : Byte) (i : Instr) : Except DecodeError Instr :=
  if imm = 0x00#8 then .ok i else .error (.nonzeroImmediate op imm)

/-- DEC.INT's immediate {S, E, N}: S = imm8[7], E = imm8[6], N = imm8[5:0] (R73). -/
def decodeInt (imm : Byte) : Instr :=
  .decInt (imm.getLsbD 7) (if imm.getLsbD 6 then .little else .big) (imm.extractLsb' 0 6).toNat

/-- The opcode map of R71. -/
def decodeFields (op imm : Byte) : Except DecodeError Instr :=
  if op = 0x01#8 then decodeNoImm op imm .sysClrErr
  else if op = 0x10#8 then decodeNoImm op imm .flInit
  else if op = 0x11#8 then .ok (.flAbsorb imm)
  else if op = 0x20#8 then decodeNoImm op imm .encRun
  else if op = 0x30#8 then decodeNoImm op imm .decBegin
  else if op = 0x31#8 then .ok (decodeInt imm)
  else if op = 0x32#8 then .ok (.decAscii imm.toNat)
  else .error (.unassignedOpcode op)

/-- What a command word says (R70, R71), for every word. -/
def decode (w : Word) : Except DecodeError Instr := decodeFields (opcodeOf w) (immOf w)

/-- The opcode of a command (R71). -/
def Instr.opcode : Instr → Byte
  | .sysClrErr => 0x01#8
  | .flInit => 0x10#8
  | .flAbsorb _ => 0x11#8
  | .encRun => 0x20#8
  | .decBegin => 0x30#8
  | .decInt _ _ _ => 0x31#8
  | .decAscii _ => 0x32#8

/-- DEC.INT's immediate, 128·S + 64·E + n (R84), as the concatenation {S, E, N} of R73. -/
def encodeInt (signed : Bool) (order : ByteOrder) (n : Nat) : Byte :=
  BitVec.ofBool signed ++ BitVec.ofBool (decide (order = .little)) ++ BitVec.ofNat 6 n

/-- The immediate of a command (R72 to R75). -/
def Instr.imm : Instr → Byte
  | .sysClrErr => 0x00#8
  | .flInit => 0x00#8
  | .flAbsorb b => b
  | .encRun => 0x00#8
  | .decBegin => 0x00#8
  | .decInt signed order n => encodeInt signed order n
  | .decAscii w => BitVec.ofNat 8 w

/-- The command word of an instruction, {opcode, imm8} (R70, R84). -/
def encode (i : Instr) : Word := i.opcode ++ i.imm

/-- One row of spec/opcode_table.json: a word belongs to the row when its bits under the mask are the row's. -/
structure TableRow where
  mnemonic : String
  word : Word
  mask : Word
  deriving DecidableEq, Repr

/-- The rows of the opcode table, in its order. -/
def opcodeTable : List TableRow :=
  [⟨"SYS.CLRERR", 0x0100#16, 0xFFFF#16⟩, ⟨"FL.INIT", 0x1000#16, 0xFFFF#16⟩, ⟨"FL.ABSORB", 0x1100#16, 0xFF00#16⟩,
   ⟨"ENC.RUN", 0x2000#16, 0xFFFF#16⟩, ⟨"DEC.BEGIN", 0x3000#16, 0xFFFF#16⟩, ⟨"DEC.INT", 0x3100#16, 0xFF00#16⟩,
   ⟨"DEC.ASCII", 0x3200#16, 0xFF00#16⟩]

/-- The word belongs to the row. -/
def TableRow.matches (r : TableRow) (w : Word) : Bool := w &&& r.mask == r.word

/-- The mnemonic of an instruction in spec/opcode_table.json. -/
def Instr.mnemonic : Instr → String
  | .sysClrErr => "SYS.CLRERR"
  | .flInit => "FL.INIT"
  | .flAbsorb _ => "FL.ABSORB"
  | .encRun => "ENC.RUN"
  | .decBegin => "DEC.BEGIN"
  | .decInt _ _ _ => "DEC.INT"
  | .decAscii _ => "DEC.ASCII"

/-- The instruction the decoder reads from the word whose low `nbits` bits are those of `w`. A command is one 16-bit
word (R70), so bits of `w` from 16 up are no part of it. -/
def decodeTableWord (nbits w : Nat) : Option Instr :=
  match decode (BitVec.ofNat 16 (w % 2 ^ nbits)) with
  | .ok i => some i
  | .error _ => none

end Sys2Proof
end

