-- ==== Sys2Proof/Machine/RegMap.lean ====
section
/-! DEFINITION. The REG space (10_state.md R38): the registers' numbers, widths and access rights, and what reading
and writing one does. -/

namespace Sys2Proof.Machine

/-- The registers of R38. -/
inductive Reg where
  | cmd
  | status
  | flLower
  | flUpper
  | flChk0
  | flChk1
  | address
  | port
  | token
  | flags
  | cmdSize
  | pktLen
  | respLen
  | argIndex
  | result
  | strOff
  | strLen
  | errCode
  | errField
  | errValue
  | errMin
  | errMax
  deriving DecidableEq, Repr

/-- All of them, in R38's order. -/
def Reg.all : List Reg :=
  [.cmd, .status, .flLower, .flUpper, .flChk0, .flChk1, .address, .port, .token, .flags, .cmdSize, .pktLen, .respLen,
   .argIndex, .result, .strOff, .strLen, .errCode, .errField, .errValue, .errMin, .errMax]

/-- The register's number (R38). -/
def Reg.number : Reg → Nat
  | .cmd => 0x00
  | .status => 0x01
  | .flLower => 0x02
  | .flUpper => 0x03
  | .flChk0 => 0x04
  | .flChk1 => 0x05
  | .address => 0x08
  | .port => 0x09
  | .token => 0x0A
  | .flags => 0x0B
  | .cmdSize => 0x0C
  | .pktLen => 0x0D
  | .respLen => 0x10
  | .argIndex => 0x11
  | .result => 0x12
  | .strOff => 0x13
  | .strLen => 0x14
  | .errCode => 0x18
  | .errField => 0x19
  | .errValue => 0x1A
  | .errMin => 0x1B
  | .errMax => 0x1C

/-- The register with that number; every number not in R38's table is unimplemented. -/
def Reg.ofNumber (n : Nat) : Option Reg := Reg.all.find? fun r => r.number == n

/-- The access rights of R38. -/
inductive Access where
  /-- RO. -/
  | readOnly
  /-- WO. -/
  | writeOnly
  /-- RW. -/
  | readWrite
  deriving DecidableEq, Repr

/-- The register's access right (R38). -/
def Reg.access : Reg → Access
  | .cmd => .writeOnly
  | .address | .port | .token | .flags | .cmdSize | .respLen => .readWrite
  | .status | .flLower | .flUpper | .flChk0 | .flChk1 | .pktLen | .argIndex | .result | .strOff | .strLen | .errCode
  | .errField | .errValue | .errMin | .errMax => .readOnly

/-- The register's width in bits (R38). -/
def Reg.width (p : Params) : Reg → Nat
  | .flLower | .flUpper | .flChk0 | .flChk1 | .errCode | .errField => 8
  | .errValue | .errMin | .errMax => 32
  | .result => 8 * p.intMaxBytes
  | .cmd | .status | .address | .port | .token | .flags | .cmdSize | .pktLen | .respLen | .argIndex | .strOff
  | .strLen => 16

/-- What a register or view reads as (R38, R22, R36). CMD holds nothing (R37); no read reaches its line. -/
def State.readReg (s : State) : Reg → Nat
  | .cmd => 0
  | .status => s.status.toNat
  | .flLower => s.lower.toNat
  | .flUpper => s.upper.toNat
  | .flChk0 => s.flChk0
  | .flChk1 => s.flChk1
  | .address => s.address.toNat
  | .port => s.port.toNat
  | .token => s.token.toNat
  | .flags => s.flags.toNat
  | .cmdSize => s.cmdSize.toNat
  | .pktLen => s.pktLen.toNat
  | .respLen => s.respLen.toNat
  | .argIndex => s.argIndex.toNat
  | .result => s.result.toNat
  | .strOff => s.strOff.toNat
  | .strLen => s.strLen.toNat
  | .errCode => s.errCode.toNat
  | .errField => s.errField.toNat
  | .errValue => s.errValue.toNat
  | .errMin => s.errMin.toNat
  | .errMax => s.errMax.toNat

/-- A legal write of a read-write register: it takes the value, FLAGS takes value[1:0] only, and RESP_LEN also closes
the decode transaction (20_memory.md R52). No write of another register is legal, so none changes anything. -/
def State.writeReg (s : State) (r : Reg) (value : Word) : State :=
  match r with
  | .address => { s with address := value }
  | .port => { s with port := value }
  | .token => { s with token := value }
  | .flags => { s with flags := flagsWritten value }
  | .cmdSize => { s with cmdSize := value }
  | .respLen => ({ s with respLen := value } : State).closeTransaction
  | .cmd | .status | .flLower | .flUpper | .flChk0 | .flChk1 | .pktLen | .argIndex | .result | .strOff | .strLen
  | .errCode | .errField | .errValue | .errMin | .errMax => s

end Sys2Proof.Machine
end

