-- ==== Sys2Proof/Machine/HostPort.lean ====
section
/-! DEFINITION. The host port: what a read returns and a write does in each of the five spaces (20_memory.md R50 to
R56), the reset event (70_reset_and_hazards.md R195, R196), and serving the next event of the queue. -/

namespace Sys2Proof.Machine

/-- HostRead(SWIN, idx) for a legal index (R56): the ASCII character of the byte, or REPL_CHAR. -/
def State.swinChar (s : State) (idx : Nat) : Word :=
  let b := s.byteAt .rbuf (s.strOff.toNat + idx)
  if b.toNat < 0x80 then BitVec.ofNat 16 b.toNat else s.params.replChar

/-- A read of the REG space: none where it is illegal (R54 (b), (c)). -/
def State.readRegSpace (s : State) (idx : Nat) : Option Nat :=
  match Reg.ofNumber idx with
  | none => none
  | some r => if r.access = .writeOnly then none else some (s.readReg r)

/-- What a legal read returns, none where the read is illegal (R50, R51, R54). -/
def State.readElement (s : State) (space idx : Nat) : Option Nat :=
  match space with
  | 0 => s.readRegSpace idx
  | 2 => if idx < s.pktLen.toNat then some (s.byteAt .pbuf idx).toNat else none
  | 4 => if s.dopen = true ∧ idx < s.strLen.toNat then some (s.swinChar idx).toNat else none
  | _ => none

/-- The buffer byte a legal read takes its value from (R51, R56), recorded if nothing has written it (log 4). -/
def State.noteElementRead (s : State) (space idx : Nat) : State :=
  match space with
  | 2 => s.noteRead .pbuf idx 1
  | 4 => s.noteRead .rbuf (s.strOff.toNat + idx) 1
  | _ => s

/-- HostRead(space, idx) (R51): the element, or BadAccess and 0 (R54). -/
def State.hostRead (s : State) (space idx : Word) : State :=
  match s.readElement space.toNat idx.toNat with
  | some v => { s.noteElementRead space.toNat idx.toNat with answer := some v }
  | none => { s.badAccess space idx with answer := some 0 }

/-- A write of the REG space other than to CMD: none where it is illegal (R54 (b), (c); log 7 for the value). -/
def State.writeRegSpace (s : State) (idx value : Nat) : Option State :=
  match Reg.ofNumber idx with
  | none => none
  | some r => if r.access = .readWrite ∧ value < 2 ^ 16 then some (s.writeReg r (BitVec.ofNat 16 value)) else none

/-- What a legal write other than to CMD does, none where the write is illegal (R52, R54; log 7 for the value). -/
def State.writeElement (s : State) (space idx value : Nat) : Option State :=
  match space with
  | 0 => s.writeRegSpace idx value
  | 1 =>
    if idx < Config.cmdMax ∧ value < 2 ^ 8 then some { s with cbuf := s.cbuf.write idx [BitVec.ofNat 8 value] }
    else none
  | 3 =>
    if idx < s.params.respMax ∧ value < 2 ^ 8 then
      some ({ s with rbuf := s.rbuf.write idx [BitVec.ofNat 8 value] } : State).closeTransaction
    else none
  | _ => none

/-- HostWrite(space, idx, value) other than a command (R52): its effect, or BadAccess (R54). A write returns nothing
(log 8). -/
def State.hostWrite (s : State) (space idx : Word) (value : Nat) : State :=
  match s.writeElement space.toNat idx.toNat value with
  | some t => { t with answer := none }
  | none => { s.badAccess space idx with answer := none }

/-- The reset event: every register and flag takes its reset value, the buffers' bytes are unspecified again (R195,
R196; log 5). The model's own fields stay, but for the answer and the draw number. -/
def State.hostReset (s : State) : State :=
  { State.reset with
    params := s.params, queue := s.queue, resets := s.resets + 1, readOfUnwritten := s.readOfUnwritten }

/-- The host's next event, as far as the port serves it: a command to execute, or the state after anything else. -/
inductive Served where
  /-- A CMD write of a legal word: the command it selects, and the state it executes in. -/
  | command (i : Instr) (s : State)
  /-- Anything else, done. -/
  | done (s : State)
  deriving DecidableEq, Repr

/-- A write of the word w to CMD (44_system.md R162): an illegal word faults at once. -/
def State.submit (s : State) (w : Word) : Served :=
  match decode w with
  | .ok i => .command i { s with answer := none }
  | .error _ => .done { s.illegalCommand w with answer := none }

/-- One event of the host. CMD is REG number 0x00 (R38); a word is 16 bits wide (log 7). -/
def State.serveEvent (s : State) : HostEvent → Served
  | .read space idx => .done (s.hostRead space idx)
  | .write space idx value =>
    if space.toNat = 0 ∧ idx.toNat = Reg.cmd.number ∧ value < 2 ^ 16 then s.submit (BitVec.ofNat 16 value)
    else .done (s.hostWrite space idx value)
  | .reset => .done s.hostReset

/-- The next event of the queue; with none pending the engine is idle and keeps its state (60_exceptions.md R182). -/
def State.serve (s : State) : Served :=
  match s.queue with
  | [] => .done s
  | e :: rest => ({ s with queue := rest } : State).serveEvent e

/-- The queue with one more event in front. -/
def State.prepend (s : State) (e : HostEvent) : State := { s with queue := e :: s.queue }

/-- A CMD write of the word whose low `nbits` bits are those of w. -/
def cmdWrite (nbits w : Nat) : HostEvent := .write 0 0 (w % 2 ^ nbits % 2 ^ 16)

end Sys2Proof.Machine
end

