-- ==== Sys2Proof/Machine/Step.lean ====
section
/-! DEFINITION. One step of the machine: one host event (00_scope.md R6). -/

namespace Sys2Proof.Machine

/-- Serve the host's next event; a legal command is executed before the access returns (R6, 44_system.md R162). -/
def step (s : State) : Host.Outcome State Fault Refusal :=
  match s.serve with
  | .command i t => exec i t
  | .done t => .next t

/-- The engine fetches nothing: a command comes from the host's next access (20_memory.md R65). So the instruction is
placed as that access, a CMD write in front of the queue (log 1). -/
def State.withFetchWord (s : State) (nbits w : Nat) : State := s.prepend (cmdWrite nbits w)

end Sys2Proof.Machine
end

