-- ==== Sys2Proof/Machine/Assembler.lean ====
section
/-! DEFINITION. The notation for host programs (30_encoding.md R84) and the pseudo-instructions (R85), as the host
events they stand for. Where an expansion reads a number of bytes that an earlier read of it returned (PKT_LEN,
STR_LEN), that number is an argument. -/

namespace Sys2Proof.Machine

/-- `wr NAME, v` (R84). -/
def wr (r : Reg) (v : Nat) : HostEvent := .write 0 (BitVec.ofNat 16 r.number) v

/-- `rd NAME` (R84). -/
def rd (r : Reg) : HostEvent := .read 0 (BitVec.ofNat 16 r.number)

/-- `wrb CBUF[i], b` (R84). -/
def wrbCbuf (i : Nat) (b : Byte) : HostEvent := .write 1 (BitVec.ofNat 16 i) b.toNat

/-- `wrb RBUF[i], b` (R84). -/
def wrbRbuf (i : Nat) (b : Byte) : HostEvent := .write 3 (BitVec.ofNat 16 i) b.toNat

/-- `rdb PBUF[i]` (R84). -/
def rdbPbuf (i : Nat) : HostEvent := .read 2 (BitVec.ofNat 16 i)

/-- `rdb SWIN[i]` (R84). -/
def rdbSwin (i : Nat) : HostEvent := .read 4 (BitVec.ofNat 16 i)

/-- A command's line: HostWrite(REG, 0x00, its word) (R84). -/
def cmdLine (i : Instr) : HostEvent := wr .cmd (encode i).toNat

/-- `wrb SPACE[i], d[i]` for every byte of d, from index `i` on. -/
def loadBytes (line : Nat → Byte → HostEvent) (i : Nat) : List Byte → List HostEvent
  | [] => []
  | b :: d => line i b :: loadBytes line (i + 1) d

/-- The commands every checksum sequence starts with: FL.INIT, then one FL.ABSORB per byte, in order (R85). -/
def checksumCommands (d : List Byte) : List Instr := .flInit :: d.map .flAbsorb

/-- FLETCHER16 d (R85). -/
def fletcher16Program (d : List Byte) : List HostEvent :=
  (checksumCommands d).map cmdLine ++ [rd .flLower, rd .flUpper]

/-- CHECKBYTES d (R85). -/
def checkBytesProgram (d : List Byte) : List HostEvent :=
  (checksumCommands d).map cmdLine ++ [rd .flChk0, rd .flChk1]

/-- VERIFY d, c0, c1 (R85). -/
def verifyProgram (d : List Byte) (c0 c1 : Byte) : List HostEvent :=
  (checksumCommands (d ++ [c0, c1])).map cmdLine ++ [rd .status]

/-- ENCODE a, p, t, r, o, d (R85); `len` is the PKT_LEN read. -/
def encodeProgram (a p t : Nat) (r o : Bool) (d : List Byte) (len : Nat) : List HostEvent :=
  [wr .address a, wr .port p, wr .token t, wr .flags (r.toNat + 2 * o.toNat), wr .cmdSize d.length] ++
    loadBytes wrbCbuf 0 d ++ [cmdLine .encRun, rd .status, rd .pktLen] ++ (List.range len).map rdbPbuf

/-- LOADRESP d (R85). -/
def loadRespProgram (d : List Byte) : List HostEvent :=
  loadBytes wrbRbuf 0 d ++ [wr .respLen d.length, cmdLine .decBegin]

/-- UNPACK_INT n, order, sign (R85). -/
def unpackIntProgram (n : Nat) (order : ByteOrder) (signed : Bool) : List HostEvent :=
  [cmdLine (.decInt signed order n), rd .status, rd .result]

/-- UNPACK_ASCII w (R85); `len` is the STR_LEN read. -/
def unpackAsciiProgram (w len : Nat) : List HostEvent :=
  [cmdLine (.decAscii w), rd .status, rd .strLen] ++ (List.range len).map rdbSwin

end Sys2Proof.Machine
end

