-- ==== Sys2Proof/Safety.lean ====
section
/-! DEFINITION. What claims about the machine are stated in: the invariants of 10_state.md R42, the model's own
invariant over its plain data, runs of commands, and what one can observe. -/

namespace Sys2Proof.Machine

/-- PBUF[0..PKT_LEN), none where a byte has not been written. -/
def State.packetBytes? (s : State) : List (Option Byte) := (List.range s.pktLen.toNat).map (Memory.read? s.pbuf)

/-- The invariants R42 (a) to (f), which hold after reset and after every operation. -/
structure Inv (s : State) : Prop where
  /-- (a) `lower` ≤ 254. -/
  lower_le : s.lower.toNat ≤ 254
  /-- (a) `upper` ≤ 254. -/
  upper_le : s.upper.toNat ≤ 254
  /-- (b) PKT_LEN is 0 or 7 + body_size(n) for some n ≤ 2047. -/
  pktLen_legal : s.pktLen.toNat = 0 ∨ ∃ n, n ≤ Config.cmdMax ∧ s.pktLen.toNat = packetLen n
  /-- (c) a built packet stands whole in PBUF and is well-formed. -/
  packet_wellFormed : 7 ≤ s.pktLen.toNat → ∃ bytes, IsPacket bytes ∧ s.packetBytes? = bytes.map some
  /-- (d) an open transaction has RESP_LEN ≤ RESP_MAX. -/
  open_respLen : s.dopen = true → s.respLen.toNat ≤ s.params.respMax
  /-- (d) an open transaction has ARG_INDEX ≤ RESP_LEN. -/
  open_argIndex : s.dopen = true → s.argIndex.toNat ≤ s.respLen.toNat
  /-- (d) an open transaction has STR_OFF + STR_LEN ≤ RESP_LEN. -/
  open_string : s.dopen = true → s.strOff.toNat + s.strLen.toNat ≤ s.respLen.toNat
  /-- (e) FAIL implies EANY. -/
  fail_eany : s.fail = true → s.eany = true
  /-- (e) EANY exactly when ERR_CODE ≠ 0. -/
  eany_iff : s.eany = true ↔ s.errCode ≠ 0
  /-- (f) FLAGS[15:2] = 0. -/
  flags_reserved : s.flags.toNat < 4

/-- The values ERR_CODE takes (60_exceptions.md R171; 93_implementation_defined.md U7). -/
def errCodes : List Byte := [0, 1, 2, 3, 5, 6, 7, 8]

/-- The values ERR_FIELD takes (60_exceptions.md R172). -/
def errFields : List Byte := [0, 1, 2, 3, 4, 5, 6, 7, 8, 9, 10, 11, 12]

/-- The model's own invariant: the parameters are R8's, the buffers are in canonical form and inside their capacity
(R26 to R28), RESULT fits its 8·INT_MAX_BYTES bits (R32), the record holds codes of R171 and R172. -/
structure DataInv (s : State) : Prop where
  params_wf : s.params.wf
  cbuf_wf : Memory.wf s.cbuf
  pbuf_wf : Memory.wf s.pbuf
  rbuf_wf : Memory.wf s.rbuf
  cbuf_within : Memory.within s.cbuf Config.cmdMax
  pbuf_within : Memory.within s.pbuf Config.pktMax
  rbuf_within : Memory.within s.rbuf s.params.respMax
  result_width : s.result.toNat < 2 ^ (8 * s.params.intMaxBytes)
  errCode_legal : s.errCode ∈ errCodes
  errField_legal : s.errField ∈ errFields

/-- The commands executed one after another (00_scope.md R6), stopping where one stops the machine. -/
def execAll : List Instr → State → Host.Outcome State Fault Refusal
  | [], s => .next s
  | i :: is, s =>
    match exec i s with
    | .next t => execAll is t
    | .fault r => .fault r
    | .refused r => .refused r

/-- The bytes a decode command consumes when it gets past its descriptor or integer: N, or W (43_decoder.md R141). -/
def argBytes : Instr → Nat
  | .decInt _ _ n => n
  | .decAscii w => w
  | .sysClrErr | .flInit | .flAbsorb _ | .encRun | .decBegin => 0

/-- What a decode command that ended in `t` adds to the cursor (R141): its N or W when it completed, its W when it
faulted OutOfBounds (code 3), nothing on any other fault. -/
def consumed (i : Instr) (t : State) : Nat :=
  if t.fail = false ∨ t.errCode = Cause.outOfBounds.code then argBytes i else 0

/-- The sum of the bytes the commands consume, executed one after another from `s` (R141). -/
def totalConsumed : List Instr → State → Nat
  | [], _ => 0
  | i :: is, s =>
    match exec i s with
    | .next t => consumed i t + totalConsumed is t
    | .fault _ => 0
    | .refused _ => 0

/-- A state of a run that has read no byte nothing had written: no value in it rests on a free byte (U1, log 4). -/
def State.Safe (s : State) : Prop := s.readOfUnwritten = false

/-- Two states that differ in hidden bytes of PBUF only, those at PKT_LEN and beyond (R41). -/
def SameButHidden (s t : State) : Prop :=
  t = { s with pbuf := t.pbuf } ∧ ∀ i, i < s.pktLen.toNat → Memory.read? t.pbuf i = Memory.read? s.pbuf i

end Sys2Proof.Machine
end

