-- ==== Sys2Proof/Certificates/Slice0/Obligations.lean ====
section
/-! DEFINITION. The statements for the provers, from the numbered rules of spec/. A record update `{ s with … }` in a
conclusion names every field that changes: every other register, flag and byte of memory is as in `s`. -/

open Sys2Proof Sys2Proof.Machine

/-! Encoding -/

/-- Words written out from R71 and R73, and what they decode to; three illegal ones. A sanity statement. -/
def Obligations.SpecWordsDecode : Prop :=
  decode 0b0000000100000000#16 = .ok .sysClrErr ∧ decode 0b0001000000000000#16 = .ok .flInit ∧
  decode 0b0001000110100101#16 = .ok (.flAbsorb 0xA5#8) ∧ decode 0b0010000000000000#16 = .ok .encRun ∧
  decode 0b0011000000000000#16 = .ok .decBegin ∧ decode 0b0011000111000010#16 = .ok (.decInt true .little 2) ∧
  decode 0b0011000100001000#16 = .ok (.decInt false .big 8) ∧ decode 0b0011001000000011#16 = .ok (.decAscii 3) ∧
  decode 0x1001#16 = .error (.nonzeroImmediate 0x10#8 0x01#8) ∧ decode 0x0000#16 = .error (.unassignedOpcode 0x00#8) ∧
  decode 0xFFFF#16 = .error (.unassignedOpcode 0xFF#8)

/-- The Encoding column of R84 for the seven commands, every operand. -/
def Obligations.EncodeFollowsAssemblerTable : Prop :=
  encode .sysClrErr = 0x0100#16 ∧ encode .flInit = 0x1000#16 ∧ encode .encRun = 0x2000#16 ∧
  encode .decBegin = 0x3000#16 ∧ (∀ b : Byte, (encode (.flAbsorb b)).toNat = 0x1100 + b.toNat) ∧
  (∀ (signed : Bool) (order : ByteOrder) (n : Nat), n ≤ 63 →
    (encode (.decInt signed order n)).toNat =
      0x3100 + 128 * signed.toNat + 64 * (if order = .little then 1 else 0) + n) ∧
  (∀ w : Nat, w ≤ 255 → (encode (.decAscii w)).toNat = 0x3200 + w)

/-- Decoding an encoded well-formed instruction gives it back, with every operand the encoding admits (R70 to R75). -/
def Obligations.DecodeEncodeRoundTrip : Prop :=
  ∀ i : Instr, i.wf = true → decode (encode i) = .ok i

/-- A legal word has one meaning: the decoded instruction is well-formed and encodes to that word (R70 to R76). -/
def Obligations.EncodeDecodeRoundTrip : Prop :=
  ∀ (w : Word) (i : Instr), decode w = .ok i → i.wf = true ∧ encode i = w

/-- Which words are legal: those of exactly one row of the opcode table, the row of the instruction they decode to;
and a word is illegal exactly when its opcode is not in R71 or it is one of the four that take no immediate and imm8 is
not 0 (R75, R76). -/
def Obligations.LegalWordsAreTableRows : Prop :=
  ∀ w : Word,
    ((∃ i, decode w = .ok i) ↔ ∃ r, r ∈ opcodeTable ∧ r.matches w = true) ∧
    (∀ i, decode w = .ok i → ∀ r, r ∈ opcodeTable → (r.matches w = true ↔ r.mnemonic = i.mnemonic)) ∧
    ((∃ e, decode w = .error e) ↔
      (w.toNat / 256 ∉ [0x01, 0x10, 0x11, 0x20, 0x30, 0x31, 0x32] ∨
        (w.toNat / 256 ∈ [0x01, 0x10, 0x20, 0x30] ∧ w.toNat % 256 ≠ 0)))

/-! The step -/

/-- The step executes the command a CMD write carries (R162): when the next event writes a legal word to REG 0x00,
the step is exec of the decoded command, the event taken off the queue. -/
def Obligations.StepRunsDecodedCommand : Prop :=
  ∀ (s : State) (rest : List HostEvent) (w : Word) (i : Instr),
    s.queue = .write 0 0 w.toNat :: rest → decode w = .ok i →
      step s = exec i { s with queue := rest, answer := none }

/-- A CMD write of an illegal word, one whose opcode is not in R71 or that carries an immediate where R75 allows none
(R76, R161): the fault IllegalCommand, OPCODE, w, 0, 0 is recorded, FAIL and EANY are set, and nothing else changes. -/
def Obligations.IllegalWordFaults : Prop :=
  ∀ (s : State) (rest : List HostEvent) (w : Word),
    (w.toNat / 256 ∉ [0x01, 0x10, 0x11, 0x20, 0x30, 0x31, 0x32] ∨
      (w.toNat / 256 ∈ [0x01, 0x10, 0x20, 0x30] ∧ w.toNat % 256 ≠ 0)) →
    s.queue = .write 0 0 w.toNat :: rest →
      step s = .next { s with
        queue := rest, answer := none, errCode := 5, errField := 10, errValue := BitVec.ofNat 32 w.toNat
        errMin := 0, errMax := 0, eany := true, fail := true }

/-- With no event pending the engine is idle and keeps its state (R182). -/
def Obligations.IdleKeepsState : Prop :=
  ∀ s : State, s.queue = [] → step s = .next s

/-- Every step of the machine, from any state, answers a next state: no operation stops the engine (R161, R170), and
every one terminates (R207). -/
def Obligations.EveryStepAnswersNext : Prop :=
  ∀ s : State, ∃ t, step s = .next t

/-! The checksum unit -/

/-- FL.INIT (R91): the word 0x1000, both sums 0, FAIL 0, nothing else changed; Z reads 1 and both check bytes 0xFF
afterwards; with a non-zero immediate the word is illegal. -/
def Obligations.FlInitStartsChecksum : Prop :=
  decode 0x1000#16 = .ok .flInit ∧
  (∀ imm : Byte, imm ≠ 0 → ∃ e, decode (0x10#8 ++ imm) = .error e) ∧
  ∀ s : State, ∃ t, exec .flInit s = .next t ∧ t = { s with lower := 0, upper := 0, fail := false } ∧
    t.z = true ∧ t.flChk0 = 0xFF ∧ t.flChk1 = 0xFF

/-- FL.ABSORB b (R92): the word 0x1100 + b, the two sums of the rolling step (`upper` with the new `lower`), FAIL 0,
nothing else changed; for sums in their range 0..254, 0x00 and 0xFF both leave `lower` unchanged and add it to
`upper`, and a sum of 255 or 510 becomes 0. -/
def Obligations.FlAbsorbRollsSums : Prop :=
  (∀ b : Byte, decode (BitVec.ofNat 16 (0x1100 + b.toNat)) = .ok (.flAbsorb b)) ∧
  ∀ (s : State) (b : Byte), ∃ t, exec (.flAbsorb b) s = .next t ∧
    t = { s with lower := t.lower, upper := t.upper, fail := false } ∧
    t.lower.toNat = (s.lower.toNat + b.toNat) % 255 ∧
    t.upper.toNat = (s.upper.toNat + (s.lower.toNat + b.toNat) % 255) % 255 ∧
    t.lower.toNat ≤ 254 ∧ t.upper.toNat ≤ 254 ∧
    (s.lower.toNat ≤ 254 → (b = 0x00#8 ∨ b = 0xFF#8) →
      t.lower = s.lower ∧ t.upper.toNat = (s.upper.toNat + s.lower.toNat) % 255)

/-- R95: after FL.INIT and one FL.ABSORB per byte, from any state and for every byte sequence of any length, the two
registers hold F16 of the sequence, and nothing else changed. -/
def Obligations.RollingEqualsFinalReduction : Prop :=
  ∀ (s : State) (d : List Byte), ∃ t, execAll (checksumCommands d) s = .next t ∧
    (t.lower.toNat, t.upper.toNat) = f16 d ∧ t = { s with lower := t.lower, upper := t.upper, fail := false }

/-- R96, the closed form: `lower` is the sum of the bytes mod 255, `upper` the sum of (m - i)·d[i] mod 255; the
unreduced sums are at most 255·m and 255·m·(m+1)/2, which for m = 128 need 15 and 22 bits. -/
def Obligations.FletcherClosedForm : Prop :=
  ∀ d : List Byte,
    (f16 d).1 = (∑ i : Fin d.length, d[i].toNat) % 255 ∧
    (f16 d).2 = (∑ i : Fin d.length, (d.length - i) * d[i].toNat) % 255 ∧
    (f16Sums 0 0 d).1 ≤ 255 * d.length ∧ (f16Sums 0 0 d).2 ≤ 255 * d.length * (d.length + 1) / 2 ∧
    (d.length = 128 → (f16Sums 0 0 d).1 ≤ 32640 ∧ (f16Sums 0 0 d).1 < 2 ^ 15 ∧ (f16Sums 0 0 d).2 ≤ 2105280 ∧
      (f16Sums 0 0 d).2 < 2 ^ 22)

/-- R97: appending the two check bytes makes both sums cancel; two bytes make them cancel exactly when they have the
residues of the check bytes; and the order matters. -/
def Obligations.CheckBytesCancel : Prop :=
  (∀ d : List Byte, f16 (d ++ checkBytes d) = (0, 0)) ∧
  (∀ (d : List Byte) (c0 c1 : Byte), f16 (d ++ [c0, c1]) = (0, 0) ↔
    ((f16 d).1 + (f16 d).2 + c0.toNat) % 255 = 0 ∧ ((f16 d).1 + c0.toNat + c1.toNat) % 255 = 0) ∧
  ∃ d : List Byte, f16 (d ++ (checkBytes d).reverse) ≠ (0, 0)

/-- R98: replacing a byte 0x00 by 0xFF or back leaves both sums; so where a check byte is 0xFF, 0x00 in its place
cancels too; the generator never makes 0x00. -/
def Obligations.ChecksumBlindToZeroAndFF : Prop :=
  (∀ d e : List Byte, f16 (d ++ 0x00#8 :: e) = f16 (d ++ 0xFF#8 :: e)) ∧
  (∀ (d : List Byte) (c0 c1 : Byte), checkBytes d = [c0, c1] →
    c0 ≠ 0x00#8 ∧ c1 ≠ 0x00#8 ∧ (c0 = 0xFF#8 → f16 (d ++ [0x00#8, c1]) = (0, 0)) ∧
    (c1 = 0xFF#8 → f16 (d ++ [c0, 0x00#8]) = (0, 0)))

/-- R94: reading FL_CHK0 and FL_CHK1 answers CHK(lower, upper), a value 1..255, and changes neither sum. -/
def Obligations.CheckByteViews : Prop :=
  ∀ (s : State) (rest : List HostEvent),
    (s.queue = .read 0 0x0004#16 :: rest →
      step s = .next { s with queue := rest, answer := some (255 - (s.lower.toNat + s.upper.toNat) % 255) }) ∧
    (s.queue = .read 0 0x0005#16 :: rest →
      step s = .next { s with
        queue := rest
        answer := some (255 - (s.lower.toNat + (255 - (s.lower.toNat + s.upper.toNat) % 255)) % 255) }) ∧
    (1 ≤ s.flChk0 ∧ s.flChk0 ≤ 255 ∧ 1 ≤ s.flChk1 ∧ s.flChk1 ≤ 255) ∧
    (s.lower = 0 → s.upper = 0 → s.flChk0 = 0xFF ∧ s.flChk1 = 0xFF)

/-- Verifying (R99, R185): after the data and the two received check bytes, Z says whether the sums of all of them
cancel, whatever it says no fault is recorded, and Z is 1 for the data's own check bytes. -/
def Obligations.VerifyReadsZ : Prop :=
  ∀ (s : State) (d : List Byte) (c0 c1 : Byte), ∃ t, execAll (checksumCommands (d ++ [c0, c1])) s = .next t ∧
    (t.z = true ↔ f16 (d ++ [c0, c1]) = (0, 0)) ∧ (checkBytes d = [c0, c1] → t.z = true) ∧
    t.fail = false ∧ t.eany = s.eany ∧ t.errCode = s.errCode

/-! The framer -/

/-- ENC.RUN's validation (R106): the five checks in order, the first that fails is recorded, and nothing else
changes. -/
def Obligations.EncRunValidatesInOrder : Prop :=
  ∀ s : State,
    (31 < s.address.toNat →
      exec .encRun s = .next { s with
        errCode := 1, errField := 1, errValue := BitVec.ofNat 32 s.address.toNat, errMin := 0, errMax := 31
        eany := true, fail := true }) ∧
    (s.address.toNat ≤ 31 → 255 < s.port.toNat →
      exec .encRun s = .next { s with
        errCode := 1, errField := 2, errValue := BitVec.ofNat 32 s.port.toNat, errMin := 0, errMax := 255
        eany := true, fail := true }) ∧
    (s.address.toNat ≤ 31 → s.port.toNat ≤ 255 → 255 < s.token.toNat →
      exec .encRun s = .next { s with
        errCode := 1, errField := 3, errValue := BitVec.ofNat 32 s.token.toNat, errMin := 0, errMax := 255
        eany := true, fail := true }) ∧
    (s.address.toNat = 0 → s.port.toNat ≤ 255 → s.token.toNat ≤ 255 → s.respExp = true →
      exec .encRun s = .next { s with
        errCode := 1, errField := 4, errValue := 1, errMin := 0, errMax := 0, eany := true, fail := true }) ∧
    (s.address.toNat ≤ 31 → s.port.toNat ≤ 255 → s.token.toNat ≤ 255 → ¬(s.address.toNat = 0 ∧ s.respExp = true) →
      2047 < s.cmdSize.toNat →
      exec .encRun s = .next { s with
        errCode := 1, errField := 5, errValue := BitVec.ofNat 32 s.cmdSize.toNat, errMin := 0, errMax := 2047
        eany := true, fail := true })

/-- ENC.RUN on legal operands completes and changes PBUF, PKT_LEN and FAIL only (R110, R112): the checksum registers,
the operand registers, CBUF and the decoder stay; PKT_LEN is 7 + body_size(n). The packet depends on the operands and
CBUF[0..n) alone; so the same command issued again builds the same packet. The last field is the model's own record of
U1 (log 4). -/
def Obligations.EncRunCompletes : Prop :=
  ∀ s : State, legalOperands s.address.toNat s.port.toNat s.token.toNat s.respExp s.cmdSize.toNat = true →
    ∃ t, exec .encRun s = .next t ∧
      t = { s with
        pbuf := t.pbuf, pktLen := t.pktLen, fail := false
        readOfUnwritten := s.readOfUnwritten || !s.allWritten .cbuf 0 s.cmdSize.toNat } ∧
      t.pktLen.toNat = 7 + (s.cmdSize.toNat / 128 * 130 +
        if s.cmdSize.toNat % 128 > 0 then s.cmdSize.toNat % 128 + 2 else 0) ∧
      (∀ s₂ : State, s₂.address = s.address → s₂.port = s.port → s₂.token = s.token → s₂.flags = s.flags →
        s₂.cmdSize = s.cmdSize → s₂.memRead .cbuf 0 s.cmdSize.toNat = s.memRead .cbuf 0 s.cmdSize.toNat →
        ∃ t₂, exec .encRun s₂ = .next t₂ ∧ t₂.pktLen = t.pktLen ∧ t₂.packetBytes? = t.packetBytes?) ∧
      ∃ t', exec .encRun t = .next t' ∧ t'.pktLen = t.pktLen ∧ t'.packetBytes? = t.packetBytes?

/-- ENC.RUN's loop builds the wire format (R77 to R79, R108, R109): on legal operands PBUF[0..PKT_LEN) holds exactly
the packet of the operands and of CBUF[0..n), header and chunk records, and every other byte of PBUF (R110, log 10)
and every byte of CBUF and RBUF is as before. -/
def Obligations.EncRunBuildsWirePacket : Prop :=
  ∀ s : State, legalOperands s.address.toNat s.port.toNat s.token.toNat s.respExp s.cmdSize.toNat = true →
    ∃ t, exec .encRun s = .next t ∧
      t.packetBytes? =
        (packet s.address.toNat s.port.toNat s.token.toNat s.respExp s.propcr
          (s.memRead .cbuf 0 s.cmdSize.toNat)).map some ∧
      (∀ i, packetLen s.cmdSize.toNat ≤ i → Memory.read? t.pbuf i = Memory.read? s.pbuf i) ∧
      (∀ i, Memory.read? t.cbuf i = Memory.read? s.cbuf i) ∧ (∀ i, Memory.read? t.rbuf i = Memory.read? s.rbuf i)

/-- Packet lengths (R80, R113): a packet is as long as the formula says, at most 2086 bytes (C1), and D0's boundary
values. -/
def Obligations.PacketLengths : Prop :=
  (∀ (a p t : Nat) (r o : Bool) (d : List Byte),
    (packet a p t r o d).length = 7 + (d.length / 128 * 130 + if d.length % 128 > 0 then d.length % 128 + 2 else 0)) ∧
  (∀ n, n ≤ 2047 → packetLen n ≤ 2086 ∧ numChunks n ≤ 16) ∧
  [0, 1, 4, 127, 128, 129, 256, 2047].map (fun n => (numChunks n, bodySize n, packetLen n)) =
    [(0, 0, 7), (1, 3, 10), (1, 6, 13), (1, 129, 136), (1, 130, 137), (2, 133, 140), (2, 260, 267), (16, 2079, 2086)]

/-- The header bit by bit (R78): CH0 = 0 0 n10 n9 n8 0 0 1, CH1 = n7..n0, CH2 = r 0 0 a4..a0, CH3 the port, CH4 the
token, CH5 and CH6 the check bytes of the five. -/
def Obligations.HeaderBitLayout : Prop :=
  ∀ (n a p t : Nat) (r : Bool), legalOperands a p t r n = true →
    header n a p t r =
      [0#2 ++ (BitVec.ofNat 11 n).extractLsb' 8 3 ++ 0b001#3, (BitVec.ofNat 11 n).extractLsb' 0 8,
       BitVec.ofBool r ++ 0#2 ++ BitVec.ofNat 5 a, BitVec.ofNat 8 p, BitVec.ofNat 8 t] ++
      checkBytes
        [0#2 ++ (BitVec.ofNat 11 n).extractLsb' 8 3 ++ 0b001#3, (BitVec.ofNat 11 n).extractLsb' 0 8,
         BitVec.ofBool r ++ 0#2 ++ BitVec.ofNat 5 a, BitVec.ofNat 8 p, BitVec.ofNat 8 t]

/-- The header decode is the inverse of the header (R81): on legal operands it gives them back, and what it accepts,
as which operands, is exactly the five bytes of a header of legal operands and two bytes that make the sums cancel. -/
def Obligations.HeaderDecodeInverts : Prop :=
  (∀ (n a p t : Nat) (r : Bool), legalOperands a p t r n = true →
    decodeHeader (header n a p t r) = some { n := n, a := a, r := r, p := p, t := t }) ∧
  (∀ (bytes : List Byte) (h : Header), decodeHeader bytes = some h ↔
    legalOperands h.a h.p h.t h.r h.n = true ∧ bytes.take 5 = headerFields h.n h.a h.p h.t h.r ∧
      bytes.length = 7 ∧ f16 bytes = (0, 0))

/-- Round trip through the machine (R114): after ENC.RUN on legal operands the header in PBUF decodes to the operands,
the payload read back from the chunk records, REORDER applied again in reorder mode, is CBUF[0..n), and every chunk
record, in either mode, has sums (0, 0). -/
def Obligations.PacketRoundTrip : Prop :=
  (∀ s : State, legalOperands s.address.toNat s.port.toNat s.token.toNat s.respExp s.cmdSize.toNat = true →
    ∃ (t : State) (bytes : List Byte), exec .encRun s = .next t ∧ t.packetBytes? = bytes.map some ∧
      decodeHeader (bytes.take 7) =
        some { n := s.cmdSize.toNat, a := s.address.toNat, r := s.respExp, p := s.port.toNat, t := s.token.toNat } ∧
      unframe s.propcr 16 s.cmdSize.toNat (bytes.drop 7) = s.memRead .cbuf 0 s.cmdSize.toNat) ∧
  ∀ (o : Bool) (chunk : List Byte), f16 (chunkRecord o chunk) = (0, 0) ∧
    (chunkRecord o chunk).length = chunk.length + 2

/-! The reorder multiplexer -/

/-- The multiplexer form (R126): byte j of the transmitted chunk is byte SEL(L, j) of the chunk in reorder mode and
byte j otherwise; so ENC.RUN's turn for the chunk at CBUF index i puts CBUF[i + SEL(L, j)], or CBUF[i + j], at
PBUF[w + j]; inside a full sub-group SEL inverts the two low bits of j. -/
def Obligations.ReorderIsMultiplexer : Prop :=
  (∀ (chunk : List Byte) (j : Nat), j < chunk.length →
    sel chunk.length j < chunk.length ∧ (transmitted true chunk)[j]? = chunk[sel chunk.length j]? ∧
      (transmitted false chunk)[j]? = chunk[j]?) ∧
  (∀ (s : State) (w i len j : Nat) (pbuf : Memory), j < len →
    Memory.read? (s.encChunk w i len pbuf) (w + j) =
      some (s.byteAt .cbuf (i + if s.propcr = true then sel len j else j))) ∧
  (∀ len j, 4 * (j / 4) + 4 ≤ len → sel len j = j ^^^ 3) ∧
  (List.range 5).map (sel 5) = [3, 2, 1, 0, 4] ∧ (List.range 7).map (sel 7) = [3, 2, 1, 0, 6, 5, 4] ∧
  (List.range 8).map (sel 8) = [3, 2, 1, 0, 7, 6, 5, 4] ∧ sel 1 0 = 0 ∧ (List.range 2).map (sel 2) = [1, 0] ∧
  (List.range 3).map (sel 3) = [2, 1, 0]

/-- The properties of R127: a permutation of the same length, its own inverse, a lone byte does not move, the mode off
transmits as given, chunk by chunk equals the whole payload at once, `lower` of the checksum does not change and
`upper` may. -/
def Obligations.ReorderProperties : Prop :=
  (∀ c : List Byte, (reorder c).length = c.length ∧ (reorder c).Perm c ∧ reorder (reorder c) = c ∧
    (f16 (reorder c)).1 = (f16 c).1 ∧ transmitted false c = c) ∧
  (∀ b : Byte, reorder [b] = [b]) ∧ (∀ (c : List Byte) (b : Byte), c.length % 4 = 0 → reorder (c ++ [b]) = reorder c ++ [b]) ∧
  (∀ d : List Byte, (List.range (numChunks d.length)).flatMap (fun k => reorder (chunkOf d k)) = reorder d) ∧
  checkBytes [0x41#8, 0x42#8, 0x43#8, 0x44#8, 0x45#8] = [0xC8#8, 0xE6#8] ∧
  checkBytes (reorder [0x41#8, 0x42#8, 0x43#8, 0x44#8, 0x45#8]) = [0xBE#8, 0xF0#8]

/-! The response decoder -/

/-- DEC.BEGIN (R136): the word 0x3000; BadOperand when RESP_LEN > RESP_MAX, with nothing else changed; otherwise cursor
and results 0, the transaction open, FAIL 0, nothing else changed, whether a transaction was open or not. RESP_LEN = 0
is legal, and then every DEC.INT of at least one byte and every DEC.ASCII faults InsufficientData. -/
def Obligations.DecBeginOpensTransaction : Prop :=
  decode 0x3000#16 = .ok .decBegin ∧ (∀ imm : Byte, imm ≠ 0 → ∃ e, decode (0x30#8 ++ imm) = .error e) ∧
  ∀ s : State,
    (s.params.respMax < s.respLen.toNat →
      exec .decBegin s = .next { s with
        errCode := 6, errField := 9, errValue := BitVec.ofNat 32 s.respLen.toNat, errMin := 0
        errMax := BitVec.ofNat 32 s.params.respMax, eany := true, fail := true }) ∧
    (s.respLen.toNat ≤ s.params.respMax →
      exec .decBegin s = .next { s with
        argIndex := 0, result := 0, strOff := 0, strLen := 0, dopen := true, fail := false }) ∧
    (s.respLen = 0 → ∃ t, exec .decBegin s = .next t ∧ t.dopen = true ∧
      (∀ signed order n, 0 < n → n ≤ s.params.intMaxBytes →
        ∃ t', exec (.decInt signed order n) t = .next t' ∧ t'.fail = true ∧ t'.errCode = 2) ∧
      ∀ w, w = 3 ∨ w = 4 → ∃ t', exec (.decAscii w) t = .next t' ∧ t'.fail = true ∧ t'.errCode = 2)

/-- DEC.INT's faults in their order (R137), each with nothing but the record changed. -/
def Obligations.DecIntFaultsInOrder : Prop :=
  ∀ (s : State) (signed : Bool) (order : ByteOrder) (n : Nat),
    (s.params.intMaxBytes < n →
      exec (.decInt signed order n) s = .next { s with
        errCode := 6, errField := 6, errValue := BitVec.ofNat 32 n, errMin := 0
        errMax := BitVec.ofNat 32 s.params.intMaxBytes, eany := true, fail := true }) ∧
    (n ≤ s.params.intMaxBytes → s.dopen = false →
      exec (.decInt signed order n) s = .next { s with
        errCode := 7, errField := 12, errValue := 0, errMin := 1, errMax := 1, eany := true, fail := true }) ∧
    (n ≤ s.params.intMaxBytes → s.dopen = true → s.respLen.toNat - s.argIndex.toNat < n →
      exec (.decInt signed order n) s = .next { s with
        errCode := 2, errField := 6, errValue := BitVec.ofNat 32 n, errMin := 0
        errMax := BitVec.ofNat 32 (s.respLen.toNat - s.argIndex.toNat), eany := true, fail := true })

/-- DEC.INT reads (R137 to R139): when nothing faults, RESULT is the unsigned value of the N bytes at the cursor in the
declared order, zero-extended, or as a two's complement number in 8·INT_MAX_BYTES bits when signed; the cursor moves
by N; FAIL is 0 and nothing else changes. The last field is the model's own record of U1 (log 4). -/
def Obligations.DecIntReadsInteger : Prop :=
  ∀ (s : State) (signed : Bool) (order : ByteOrder) (n : Nat), s.params.wf →
    n ≤ s.params.intMaxBytes → s.dopen = true → s.argIndex.toNat + n ≤ s.respLen.toNat →
    ∃ t u, exec (.decInt signed order n) s = .next t ∧
      u = (match order with
        | .big => be (s.memRead .rbuf s.argIndex.toNat n)
        | .little => le (s.memRead .rbuf s.argIndex.toNat n)) ∧
      t = { s with
        result := t.result, argIndex := t.argIndex, fail := false
        readOfUnwritten := s.readOfUnwritten || !s.allWritten .rbuf s.argIndex.toNat n } ∧
      t.argIndex.toNat = s.argIndex.toNat + n ∧ t.result.toNat < 2 ^ (8 * s.params.intMaxBytes) ∧
      (signed = false → t.result.toNat = u) ∧
      (signed = true →
        (BitVec.ofNat (8 * s.params.intMaxBytes) t.result.toNat).toInt =
          if n = 0 ∨ u < 2 ^ (8 * n - 1) then (u : Int) else (u : Int) - 2 ^ (8 * n))

/-- Value assembly (R138): big-endian Σ s[k]·256^(N-1-k), little-endian Σ s[k]·256^k, below 256^N, the empty sequence
0. -/
def Obligations.IntegerAssembly : Prop :=
  ∀ d : List Byte,
    be d = (∑ k : Fin d.length, d[k].toNat * 256 ^ (d.length - 1 - k)) ∧
    le d = (∑ k : Fin d.length, d[k].toNat * 256 ^ (k : Nat)) ∧
    be d < 256 ^ d.length ∧ le d < 256 ^ d.length ∧ le d = be d.reverse

/-- What DEC.INT leaves in RESULT (R139): unsigned, u zero-extended; signed, v = u or u - 2^(8N) in two's complement in
8·INT_MAX_BYTES bits, which is the sign extension of u taken as 8N bits; R139's two numbers. -/
def Obligations.SignedImageSignExtends : Prop :=
  (∀ m u n : Nat, n ≤ m → u < 2 ^ (8 * n) →
    resultImage m false u n = u ∧ resultImage m false u n = ((BitVec.ofNat (8 * n) u).setWidth (8 * m)).toNat ∧
    (BitVec.ofNat (8 * m) (resultImage m true u n)).toInt =
      (if n = 0 ∨ u < 2 ^ (8 * n - 1) then (u : Int) else (u : Int) - 2 ^ (8 * n)) ∧
    resultImage m true u n = ((BitVec.ofNat (8 * n) u).signExtend (8 * m)).toNat ∧ resultImage m true 0 0 = 0) ∧
  resultImage 8 true 0x80 1 = 0xFFFFFFFFFFFFFF80 ∧ resultImage 8 true 0x7FFF 2 = 32767

/-- DEC.ASCII's faults in their order (R140): the first three with nothing but the record changed, OutOfBounds with the
cursor already moved by W and the old string kept. OutOfBounds has read the descriptor, so its last field is the model's
own record of U1 (log 4). -/
def Obligations.DecAsciiFaultsInOrder : Prop :=
  ∀ (s : State) (w : Nat),
    (w ≠ 3 → w ≠ 4 →
      exec (.decAscii w) s = .next { s with
        errCode := 6, errField := 7, errValue := BitVec.ofNat 32 w, errMin := 3, errMax := 4, eany := true
        fail := true }) ∧
    (w = 3 ∨ w = 4 → s.dopen = false →
      exec (.decAscii w) s = .next { s with
        errCode := 7, errField := 12, errValue := 0, errMin := 1, errMax := 1, eany := true, fail := true }) ∧
    (w = 3 ∨ w = 4 → s.dopen = true → s.respLen.toNat - s.argIndex.toNat < w →
      exec (.decAscii w) s = .next { s with
        errCode := 2, errField := 7, errValue := BitVec.ofNat 32 w, errMin := 0
        errMax := BitVec.ofNat 32 (s.respLen.toNat - s.argIndex.toNat), eany := true, fail := true }) ∧
    (w = 3 ∨ w = 4 → s.dopen = true → s.argIndex.toNat + w ≤ s.respLen.toNat →
      s.respLen.toNat < s.descOffset + s.descLength w →
      exec (.decAscii w) s = .next { s with
        argIndex := BitVec.ofNat 16 (s.argIndex.toNat + w)
        errCode := 3, errField := 8, errValue := BitVec.ofNat 32 (s.descOffset + s.descLength w), errMin := 0
        errMax := BitVec.ofNat 32 s.respLen.toNat, eany := true, fail := true
        readOfUnwritten := s.readOfUnwritten || !s.allWritten .rbuf s.argIndex.toNat w })

/-- DEC.ASCII reads a descriptor (R140, R83): two bytes of offset, one or two of length, both big-endian; when the
string lies in the response, STR_OFF and STR_LEN hold them, the cursor moves by W, FAIL is 0 and nothing else changes.
The last field is the model's own record of U1 (log 4). -/
def Obligations.DecAsciiReadsDescriptor : Prop :=
  ∀ (s : State) (w off len : Nat), w = 3 ∨ w = 4 → s.dopen = true → s.argIndex.toNat + w ≤ s.respLen.toNat →
    off = (s.byteAt .rbuf s.argIndex.toNat).toNat * 256 + (s.byteAt .rbuf (s.argIndex.toNat + 1)).toNat →
    len = (if w = 3 then (s.byteAt .rbuf (s.argIndex.toNat + 2)).toNat
      else (s.byteAt .rbuf (s.argIndex.toNat + 2)).toNat * 256 + (s.byteAt .rbuf (s.argIndex.toNat + 3)).toNat) →
    off + len ≤ s.respLen.toNat →
    ∃ t, exec (.decAscii w) s = .next t ∧
      t = { s with
        strOff := t.strOff, strLen := t.strLen, argIndex := t.argIndex, fail := false
        readOfUnwritten := s.readOfUnwritten || !s.allWritten .rbuf s.argIndex.toNat w } ∧
      t.strOff.toNat = off ∧ t.strLen.toNat = len ∧ t.argIndex.toNat = s.argIndex.toNat + w

/-- The cursor law (R141): after a successful DEC.BEGIN, whatever commands other than DEC.BEGIN follow, ARG_INDEX is the
sum of the bytes they consumed (N or W of each DEC.INT and DEC.ASCII that completed, W of each DEC.ASCII that faulted
OutOfBounds, nothing for any other), never above RESP_LEN and never below what it was before the last of them; the
transaction stays open over the same response. -/
def Obligations.CursorCountsConsumedBytes : Prop :=
  ∀ (s t₀ : State) (cs : List Instr), s.respLen.toNat ≤ s.params.respMax → (∀ i ∈ cs, i ≠ .decBegin) →
    exec .decBegin s = .next t₀ →
    ∃ t, execAll cs t₀ = .next t ∧ t.argIndex.toNat = totalConsumed cs t₀ ∧ t.argIndex.toNat ≤ t.respLen.toNat ∧
      t.dopen = true ∧ t.rbuf = s.rbuf ∧ t.respLen = s.respLen ∧
      ∀ i t', i ≠ .decBegin → exec i t = .next t' → t.argIndex.toNat ≤ t'.argIndex.toNat

/-- The response is immutable while a transaction is open (R31): a step after which it is open left RBUF and RESP_LEN
as they were, and it was open before unless the step executed DEC.BEGIN. -/
def Obligations.OpenResponseIsImmutable : Prop :=
  ∀ s t : State, step s = .next t → t.dopen = true →
    t.rbuf = s.rbuf ∧ t.respLen = s.respLen ∧
      (s.dopen = true ∨ ∃ rest, s.queue = .write 0 0 0x3000 :: rest)

/-! Host accesses -/

/-- The readable registers of R38 with their values, views included (R36: STATUS is Z, DOPEN, FAIL, EANY from bit 0):
a read answers the value and changes nothing else (R51). -/
def Obligations.RegisterReads : Prop :=
  ∀ (s : State) (rest : List HostEvent) (c : Nat × Nat),
    c ∈ [(0x01, s.z.toNat + 2 * s.dopen.toNat + 4 * s.fail.toNat + 8 * s.eany.toNat),
         (0x02, s.lower.toNat), (0x03, s.upper.toNat), (0x04, s.flChk0), (0x05, s.flChk1), (0x08, s.address.toNat), (0x09, s.port.toNat),
         (0x0A, s.token.toNat), (0x0B, s.flags.toNat), (0x0C, s.cmdSize.toNat), (0x0D, s.pktLen.toNat),
         (0x10, s.respLen.toNat), (0x11, s.argIndex.toNat), (0x12, s.result.toNat), (0x13, s.strOff.toNat),
         (0x14, s.strLen.toNat), (0x18, s.errCode.toNat), (0x19, s.errField.toNat), (0x1A, s.errValue.toNat),
         (0x1B, s.errMin.toNat), (0x1C, s.errMax.toNat)] →
    s.queue = .read 0 (BitVec.ofNat 16 c.1) :: rest →
      step s = .next { s with queue := rest, answer := some c.2 }

/-- Z is 1 exactly when both sums are 0 (R93). -/
def Obligations.ZeroFlagMeansSumsCancel : Prop :=
  ∀ s : State, (s.z = true ↔ s.lower.toNat = 0 ∧ s.upper.toNat = 0) ∧ (s.status.getLsbD 0 = s.z)

/-- Legal writes (R52): the operand registers take the value, FLAGS its two low bits, RESP_LEN also closes the
transaction; a byte of CBUF or RBUF takes the value, every other byte of the buffer keeps its own, and a write of RBUF
closes the transaction; FAIL, EANY and the record are not touched. A write of a legal word to CMD executes the
command. -/
def Obligations.LegalWrites : Prop :=
  ∀ (s : State) (rest : List HostEvent) (v : Word) (b : Byte) (i : Nat),
    (s.queue = .write 0 0x08 v.toNat :: rest →
      step s = .next { s with queue := rest, answer := none, address := v }) ∧
    (s.queue = .write 0 0x09 v.toNat :: rest →
      step s = .next { s with queue := rest, answer := none, port := v }) ∧
    (s.queue = .write 0 0x0A v.toNat :: rest →
      step s = .next { s with queue := rest, answer := none, token := v }) ∧
    (s.queue = .write 0 0x0B v.toNat :: rest →
      step s = .next { s with queue := rest, answer := none, flags := BitVec.ofNat 16 (v.toNat % 4) }) ∧
    (s.queue = .write 0 0x0C v.toNat :: rest →
      step s = .next { s with queue := rest, answer := none, cmdSize := v }) ∧
    (s.queue = .write 0 0x10 v.toNat :: rest →
      step s = .next { s with queue := rest, answer := none, respLen := v, dopen := false }) ∧
    (i < 2047 → s.queue = .write 1 (BitVec.ofNat 16 i) b.toNat :: rest →
      ∃ t, step s = .next t ∧ t = { s with queue := rest, answer := none, cbuf := t.cbuf } ∧
        Memory.read? t.cbuf i = some b ∧ ∀ j, j ≠ i → Memory.read? t.cbuf j = Memory.read? s.cbuf j) ∧
    (i < s.params.respMax → i < 65536 → s.queue = .write 3 (BitVec.ofNat 16 i) b.toNat :: rest →
      ∃ t, step s = .next t ∧ t = { s with queue := rest, answer := none, rbuf := t.rbuf, dopen := false } ∧
        Memory.read? t.rbuf i = some b ∧ ∀ j, j ≠ i → Memory.read? t.rbuf j = Memory.read? s.rbuf j) ∧
    (∀ c : Instr, decode v = .ok c → s.queue = .write 0 0x00 v.toNat :: rest →
      step s = exec c { s with queue := rest, answer := none })

/-- Illegal accesses (R54): the listed ones record BadAccess, HOST_ACCESS, space·65536 + idx, 0, 0 and leave FAIL; a
read returns 0, a write writes nothing, and nothing else changes. That a space id is 16 bits wide, so that an id above
4 can be presented and is recorded whole, is the model's choice (log 6). -/
def Obligations.IllegalAccessesFault : Prop :=
  ∀ (s : State) (rest : List HostEvent) (sp idx : Word) (v : Nat),
    ((4 < sp.toNat ∨
      (sp = 0 ∧ idx.toNat ∉ [0x01, 0x02, 0x03, 0x04, 0x05, 0x08, 0x09, 0x0A, 0x0B, 0x0C, 0x0D, 0x10, 0x11, 0x12, 0x13,
        0x14, 0x18, 0x19, 0x1A, 0x1B, 0x1C]) ∨
      sp = 1 ∨ sp = 3 ∨ (sp = 2 ∧ s.pktLen.toNat ≤ idx.toNat) ∨
      (sp = 4 ∧ (s.dopen = false ∨ s.strLen.toNat ≤ idx.toNat))) →
      s.queue = .read sp idx :: rest →
      step s = .next { s with
        queue := rest, answer := some 0, errCode := 8, errField := 11
        errValue := BitVec.ofNat 32 (sp.toNat * 65536 + idx.toNat), errMin := 0, errMax := 0, eany := true }) ∧
    ((4 < sp.toNat ∨
      (sp = 0 ∧ idx.toNat ∉ [0x00, 0x08, 0x09, 0x0A, 0x0B, 0x0C, 0x10]) ∨
      sp = 2 ∨ sp = 4 ∨ (sp = 1 ∧ 2046 < idx.toNat) ∨ (sp = 3 ∧ s.params.respMax ≤ idx.toNat)) →
      s.queue = .write sp idx v :: rest →
      step s = .next { s with
        queue := rest, answer := none, errCode := 8, errField := 11
        errValue := BitVec.ofNat 32 (sp.toNat * 65536 + idx.toNat), errMin := 0, errMax := 0, eany := true })

/-- A value wider than its element is turned away as BadAccess (93_implementation_defined.md U6): the model's reading,
log 7. -/
def Obligations.TooWideValuesFault : Prop :=
  ∀ (s : State) (rest : List HostEvent) (sp idx : Word) (v : Nat),
    ((sp = 0 ∧ 2 ^ 16 ≤ v) ∨ ((sp = 1 ∨ sp = 3) ∧ 2 ^ 8 ≤ v)) → s.queue = .write sp idx v :: rest →
      step s = .next { s with
        queue := rest, answer := none, errCode := 8, errField := 11
        errValue := BitVec.ofNat 32 (sp.toNat * 65536 + idx.toNat), errMin := 0, errMax := 0, eany := true }

/-- Legal reads of the byte spaces (R51, R55, R56): PBUF below PKT_LEN answers the byte; SWIN below STR_LEN with a
transaction open answers the byte's character below 0x80 and REPL_CHAR from 0x80 on, and under the invariants of R42
the byte lies inside RBUF; nothing else changes but the model's own record of U1 (log 4). -/
def Obligations.ByteSpaceReads : Prop :=
  ∀ (s : State) (rest : List HostEvent) (idx : Word),
    (idx.toNat < s.pktLen.toNat → s.queue = .read 2 idx :: rest →
      step s = .next { s with
        queue := rest, answer := some (s.byteAt .pbuf idx.toNat).toNat
        readOfUnwritten := s.readOfUnwritten || !s.allWritten .pbuf idx.toNat 1 }) ∧
    (s.dopen = true → idx.toNat < s.strLen.toNat → s.queue = .read 4 idx :: rest →
      ∃ c, step s = .next { s with
          queue := rest, answer := some c
          readOfUnwritten := s.readOfUnwritten || !s.allWritten .rbuf (s.strOff.toNat + idx.toNat) 1 } ∧
        ((s.byteAt .rbuf (s.strOff.toNat + idx.toNat)).toNat < 0x80 →
          c = (s.byteAt .rbuf (s.strOff.toNat + idx.toNat)).toNat) ∧
        (0x80 ≤ (s.byteAt .rbuf (s.strOff.toNat + idx.toNat)).toNat → c = s.params.replChar.toNat) ∧
        (Inv s → s.strOff.toNat + idx.toNat < s.respLen.toNat ∧ s.respLen.toNat ≤ s.params.respMax))

/-- The hidden bytes of PBUF are never observed (R41, R55): two states that differ only in bytes at PKT_LEN and beyond
step to two states that differ only so; in particular every answer, register and flag is the same. -/
def Obligations.HiddenPacketBytesUnobservable : Prop :=
  ∀ s₁ s₂ t₁ : State, SameButHidden s₁ s₂ → step s₁ = .next t₁ →
    ∃ t₂, step s₂ = .next t₂ ∧ SameButHidden t₁ t₂

/-! Faults and the system command -/

/-- SYS.CLRERR (R160): the word 0x0100; EANY and the record are zeroed, FAIL is 0, nothing else changes. -/
def Obligations.ClrErrClearsRecord : Prop :=
  decode 0x0100#16 = .ok .sysClrErr ∧ (∀ imm : Byte, imm ≠ 0 → ∃ e, decode (0x01#8 ++ imm) = .error e) ∧
  ∀ s : State, exec .sysClrErr s = .next { s with
    eany := false, errCode := 0, errField := 0, errValue := 0, errMin := 0, errMax := 0, fail := false }

/-- Faults of commands are precise (R170, R176): a command that ends with FAIL = 1 changed nothing but the record,
FAIL and EANY, except DEC.ASCII's OutOfBounds, which leaves the cursor moved by W (and the model's own record of U1,
log 4). -/
def Obligations.CommandFaultsArePrecise : Prop :=
  ∀ (i : Instr) (s t : State), exec i s = .next t → t.fail = true →
    t = { s with
      errCode := t.errCode, errField := t.errField, errValue := t.errValue, errMin := t.errMin, errMax := t.errMax
      eany := true, fail := true, argIndex := t.argIndex, readOfUnwritten := t.readOfUnwritten } ∧
    ((t.argIndex = s.argIndex ∧ t.readOfUnwritten = s.readOfUnwritten) ∨
      ∃ w, i = .decAscii w ∧ t.errCode = 3 ∧ t.argIndex = BitVec.ofNat 16 (s.argIndex.toNat + w))

/-- A command that completes leaves EANY and the record as they were (R162, R35), SYS.CLRERR excepted. -/
def Obligations.CompletedCommandsKeepRecord : Prop :=
  ∀ (i : Instr) (s t : State), exec i s = .next t → t.fail = false → i ≠ .sysClrErr →
    t.eany = s.eany ∧ t.errCode = s.errCode ∧ t.errField = s.errField ∧ t.errValue = s.errValue ∧
      t.errMin = s.errMin ∧ t.errMax = s.errMax

/-- FAIL and EANY (R34): FAIL changes only in a CMD write or a reset; EANY is cleared only by SYS.CLRERR or a reset. -/
def Obligations.FaultFlagsChangeOnlySo : Prop :=
  ∀ s t : State, step s = .next t →
    (t.fail ≠ s.fail → (∃ v rest, s.queue = .write 0 0 v :: rest) ∨ ∃ rest, s.queue = .reset :: rest) ∧
    (s.eany = true → t.eany = false →
      (∃ rest, s.queue = .write 0 0 0x0100 :: rest) ∨ ∃ rest, s.queue = .reset :: rest)

/-- `lower` and `upper` are written only by FL.INIT, FL.ABSORB and reset (R21). -/
def Obligations.SumsWrittenOnlyByChecksumUnit : Prop :=
  ∀ s t : State, step s = .next t → t.lower ≠ s.lower ∨ t.upper ≠ s.upper →
    (∃ (w : Word) (rest : List HostEvent), s.queue = .write 0 0 w.toNat :: rest ∧
      (decode w = .ok .flInit ∨ ∃ b, decode w = .ok (.flAbsorb b))) ∨
    ∃ rest, s.queue = .reset :: rest

/-- Which unit writes what (R66), for every command that completes or faults: the fault record, FAIL and EANY aside,
FL writes the sums, ENC.RUN writes PBUF and PKT_LEN, DEC.BEGIN writes ARG_INDEX, DOPEN, RESULT, STR_OFF, STR_LEN,
DEC.INT writes ARG_INDEX and RESULT, DEC.ASCII writes ARG_INDEX, STR_OFF and STR_LEN, SYS.CLRERR writes nothing else.
`readOfUnwritten` is the model's own record of U1 (log 4). -/
def Obligations.UnitsWriteOnlyTheirOwn : Prop :=
  ∀ (i : Instr) (s t t' : State), exec i s = .next t →
    t' = { t with
      errCode := s.errCode, errField := s.errField, errValue := s.errValue, errMin := s.errMin, errMax := s.errMax
      eany := s.eany, fail := s.fail, readOfUnwritten := s.readOfUnwritten } →
    match i with
    | .sysClrErr => t' = s
    | .flInit => t' = { s with lower := t.lower, upper := t.upper }
    | .flAbsorb _ => t' = { s with lower := t.lower, upper := t.upper }
    | .encRun => t' = { s with pbuf := t.pbuf, pktLen := t.pktLen }
    | .decBegin =>
      t' = { s with
        argIndex := t.argIndex, dopen := t.dopen, result := t.result, strOff := t.strOff, strLen := t.strLen }
    | .decInt _ _ _ => t' = { s with argIndex := t.argIndex, result := t.result }
    | .decAscii _ => t' = { s with argIndex := t.argIndex, strOff := t.strOff, strLen := t.strLen }

/-- Every byte of memory, command by command: a command other than ENC.RUN leaves every byte of CBUF, PBUF and RBUF as
it read before; ENC.RUN leaves every byte of CBUF and RBUF, and of PBUF every byte at index packetLen(CMD_SIZE) and
beyond, and all of PBUF when it faults (R110, R111; log 10). -/
def Obligations.CommandsKeepEveryOtherByte : Prop :=
  ∀ (i : Instr) (s t : State), exec i s = .next t → ∀ (b : BufferId) (a : Nat),
    (i ≠ .encRun ∨ b ≠ .pbuf ∨ t.fail = true ∨ packetLen s.cmdSize.toNat ≤ a) → t.byteAt b a = s.byteAt b a

/-! Reset -/

/-- The reset column of R38: what every readable register reads right after reset; and no byte of a buffer is
written. -/
def Obligations.ResetRegisterValues : Prop :=
  (∀ (sp idx : Word) (v : Nat),
    (idx.toNat, v) ∈ [(0x01, 0x0001), (0x02, 0), (0x03, 0), (0x04, 0xFF), (0x05, 0xFF), (0x08, 0), (0x09, 0), (0x0A, 0),
      (0x0B, 0), (0x0C, 0), (0x0D, 0), (0x10, 0), (0x11, 0), (0x12, 0), (0x13, 0), (0x14, 0), (0x18, 0), (0x19, 0),
      (0x1A, 0), (0x1B, 0), (0x1C, 0)] → sp = 0 →
    step (State.reset.prepend (.read sp idx)) = .next { State.reset with answer := some v }) ∧
  ∀ (b : BufferId) (i : Nat), Memory.read? (State.reset.buffer b) i = none

/-- A reset event (R195, R196) puts every register and flag to 0 and unwrites every buffer byte, and what it leaves
depends on nothing of the state before but the model's own fields (logs 2 to 5). -/
def Obligations.ResetEventClearsEngine : Prop :=
  ∀ (s : State) (rest : List HostEvent), s.queue = .reset :: rest →
    step s = .next { State.reset with
      params := s.params, queue := rest, resets := s.resets + 1, readOfUnwritten := s.readOfUnwritten }

/-- ENC.RUN straight after reset (R198) completes and builds the packet 01 00 00 00 00 F9 05. -/
def Obligations.EncRunStraightAfterReset : Prop :=
  ∃ t, step (State.reset.withFetchWord 16 0x2000) = .next t ∧ t.fail = false ∧
    t.packetBytes? = [0x01#8, 0x00#8, 0x00#8, 0x00#8, 0x00#8, 0xF9#8, 0x05#8].map some

/-! Invariants -/

/-- The state after reset meets the invariants of R42. -/
def Obligations.ResetMeetsInvariants : Prop := Inv State.reset

/-- R42: its invariants (a) to (f) hold after reset, and every step, from any state that meets them, leads to a state
that meets them. -/
def Obligations.StepKeepsInvariants : Prop :=
  Inv State.reset ∧ ∀ s t : State, Inv s → step s = .next t → Inv t

/-- The state after reset meets the model's own invariant (its parameters are those of log 2). -/
def Obligations.ResetMeetsDataInvariant : Prop := DataInv State.reset

/-- Every step keeps the model's own invariant: buffers in canonical form and within their capacity, RESULT within its
width, the record's codes among R171's and R172's. -/
def Obligations.StepKeepsDataInvariant : Prop :=
  ∀ s t : State, DataInv s → step s = .next t → DataInv t

/-- The open parameters are constant for the life of the hardware (R43). -/
def Obligations.ParametersNeverChange : Prop :=
  ∀ s t : State, step s = .next t → t.params = s.params
end

