-- ==== Sys2Proof/Laws/Checksum.lean ====
section
/-! SUPPORT. The laws of the checksum arithmetic: the sums of a sequence in two parts, their residues, and the range of
the check bytes. -/

namespace Sys2Proof.Machine

@[simp] theorem f16Sums_nil (lo up : Nat) : f16Sums lo up [] = (lo, up) := rfl

@[simp] theorem f16Sums_cons (lo up : Nat) (b : Byte) (d : List Byte) :
    f16Sums lo up (b :: d) = f16Sums (lo + b.toNat) (up + (lo + b.toNat)) d := rfl

theorem f16Sums_append (lo up : Nat) (d e : List Byte) :
    f16Sums lo up (d ++ e) = f16Sums (f16Sums lo up d).1 (f16Sums lo up d).2 e := by
  induction d generalizing lo up with
  | nil => rfl
  | cons b d ih => exact ih _ _

/-- The residues of the sums depend on the residues of the start values only. -/
theorem f16Sums_modEq {lo lo' up up' : Nat} (hl : lo ≡ lo' [MOD 255]) (hu : up ≡ up' [MOD 255]) (d : List Byte) :
    (f16Sums lo up d).1 ≡ (f16Sums lo' up' d).1 [MOD 255] ∧ (f16Sums lo up d).2 ≡ (f16Sums lo' up' d).2 [MOD 255] := by
  induction d generalizing lo lo' up up' with
  | nil => exact ⟨hl, hu⟩
  | cons b d ih => exact ih (hl.add_right _) (hu.add (hl.add_right _))

theorem f16_fst_le (d : List Byte) : (f16 d).1 ≤ 254 := Nat.le_of_lt_succ (Nat.mod_lt _ (by decide))

theorem f16_snd_le (d : List Byte) : (f16 d).2 ≤ 254 := Nat.le_of_lt_succ (Nat.mod_lt _ (by decide))

/-- The sums of a sequence followed by two bytes. -/
theorem f16_append_pair (d : List Byte) (c0 c1 : Byte) :
    f16 (d ++ [c0, c1]) =
      (((f16 d).1 + c0.toNat + c1.toNat) % 255, ((f16 d).2 + 2 * ((f16 d).1 + c0.toNat) + c1.toNat) % 255) := by
  simp only [f16, f16Sums_append, f16Sums_cons, f16Sums_nil, Config.flMod, Prod.mk.injEq]
  constructor <;> omega

/-- The sums of a sequence in two parts, from the residues of the first. -/
theorem f16_append (d e : List Byte) :
    f16 (d ++ e) = ((f16Sums (f16 d).1 (f16 d).2 e).1 % 255, (f16Sums (f16 d).1 (f16 d).2 e).2 % 255) := by
  have h := f16Sums_modEq (Nat.mod_modEq (f16Sums 0 0 d).1 255).symm (Nat.mod_modEq (f16Sums 0 0 d).2 255).symm e
  simp only [f16, f16Sums_append, Config.flMod, Prod.mk.injEq]
  exact ⟨h.1, h.2⟩

/-- `lower` is the sum of the bytes. -/
theorem f16Sums_fst (lo up : Nat) (d : List Byte) : (f16Sums lo up d).1 = lo + (d.map BitVec.toNat).sum := by
  induction d generalizing lo up with
  | nil => simp
  | cons b d ih => simp [ih, Nat.add_assoc]

theorem chk0_range (l u : Nat) : 1 ≤ chk0 l u ∧ chk0 l u ≤ 255 := by
  simp only [chk0, Config.flMod]
  omega

theorem chk1_range (l u : Nat) : 1 ≤ chk1 l u ∧ chk1 l u ≤ 255 := by
  simp only [chk1, Config.flMod]
  omega

theorem checkBytes_length (d : List Byte) : (checkBytes d).length = 2 := rfl

/-- The check bytes as numbers. -/
theorem checkBytes_toNat (d : List Byte) :
    (checkBytes d).map BitVec.toNat = [chk0 (f16 d).1 (f16 d).2, chk1 (f16 d).1 (f16 d).2] := by
  have h0 := (chk0_range (f16 d).1 (f16 d).2).2
  have h1 := (chk1_range (f16 d).1 (f16 d).2).2
  simp [checkBytes, Nat.mod_eq_of_lt (Nat.lt_succ_of_le h0), Nat.mod_eq_of_lt (Nat.lt_succ_of_le h1)]

theorem absorbLower_le (l b : Byte) : absorbLower l b ≤ 254 := Nat.le_of_lt_succ (Nat.mod_lt _ (by decide))

theorem absorbUpper_le (l u b : Byte) : absorbUpper l u b ≤ 254 := Nat.le_of_lt_succ (Nat.mod_lt _ (by decide))

end Sys2Proof.Machine
end

