-- ==== Sys2Proof/Laws/Decode.lean ====
section
/-! SUPPORT. The fields of a command word as numbers, and the immediate of DEC.INT both ways. -/

namespace Sys2Proof

theorem opcodeOf_toNat (w : Word) : (opcodeOf w).toNat = w.toNat / 256 := by
  have := w.isLt
  simp only [opcodeOf, BitVec.extractLsb'_toNat, Nat.shiftRight_eq_div_pow]
  omega

theorem immOf_toNat (w : Word) : (immOf w).toNat = w.toNat % 256 := by
  simp [immOf, BitVec.extractLsb'_toNat]

/-- A word {opcode, imm8} as a number. -/
theorem append_toNat (op imm : Byte) : (op ++ imm : Word).toNat = 256 * op.toNat + imm.toNat := by
  have h := Nat.shiftLeft_add_eq_or_of_lt imm.isLt op.toNat
  rw [BitVec.toNat_append, ← h, Nat.shiftLeft_eq]
  omega

theorem encode_toNat (i : Instr) : (encode i).toNat = 256 * i.opcode.toNat + i.imm.toNat := append_toNat _ _

theorem opcodeOf_encode (i : Instr) : opcodeOf (encode i) = i.opcode := by
  apply BitVec.eq_of_toNat_eq
  have := i.imm.isLt
  rw [opcodeOf_toNat, encode_toNat]
  omega

theorem immOf_encode (i : Instr) : immOf (encode i) = i.imm := by
  apply BitVec.eq_of_toNat_eq
  have := i.imm.isLt
  rw [immOf_toNat, encode_toNat]
  omega

/-- A word is its two fields. -/
theorem fields_append (w : Word) : (opcodeOf w ++ immOf w : Word) = w := by
  apply BitVec.eq_of_toNat_eq
  rw [append_toNat, opcodeOf_toNat, immOf_toNat]
  omega

theorem encodeInt_toNat (signed : Bool) (order : ByteOrder) (n : Nat) (h : n ≤ 63) :
    (encodeInt signed order n).toNat = 128 * signed.toNat + 64 * (if order = .little then 1 else 0) + n := by
  have key : ∀ k : Fin 64,
      (encodeInt signed order k).toNat = 128 * signed.toNat + 64 * (if order = .little then 1 else 0) + k := by
    cases signed <;> cases order <;> decide
  exact key ⟨n, by omega⟩

theorem decodeInt_encodeInt (signed : Bool) (order : ByteOrder) (n : Nat) (h : n ≤ 63) :
    decodeInt (encodeInt signed order n) = .decInt signed order n := by
  have key : ∀ k : Fin 64, decodeInt (encodeInt signed order k) = .decInt signed order k := by
    cases signed <;> cases order <;> decide
  exact key ⟨n, by omega⟩

/-- Every immediate byte is DEC.INT's immediate of some operands (R73: every bit pattern decodes). -/
theorem decodeInt_cases (imm : Byte) :
    ∃ signed order n, decodeInt imm = .decInt signed order n ∧ n ≤ 63 ∧ encodeInt signed order n = imm := by
  refine ⟨_, _, _, rfl, ?_, ?_⟩
  · have := (imm.extractLsb' 0 6).isLt
    omega
  · revert imm
    decide

end Sys2Proof
end

