-- ==== Sys2Proof/Laws/Memory.lean ====
section
/-! SUPPORT. The laws of one buffer: what a read gives after a write, and that a write keeps the canonical form and
the capacity. -/

namespace Sys2Proof.Machine.Memory

@[simp] theorem read?_nil (i : Nat) : read? [] i = none := rfl

theorem read?_append (m n : Memory) (i : Nat) : read? (m ++ n) i = (read? m i).or (read? n i) := by
  induction m with
  | nil => simp
  | cons c m ih => rw [List.cons_append, read?, read?]; split <;> simp [ih]

theorem read?_cells (i j : Nat) (bs : List Byte) :
    read? (cells i bs) j = if i ≤ j then bs[j - i]? else none := by
  induction bs generalizing i with
  | nil => simp [cells]
  | cons b bs ih =>
    rw [cells, read?, ih]
    obtain h | rfl | h := Nat.lt_trichotomy i j
    · have e : j - i = (j - (i + 1)) + 1 := by omega
      simp [h.ne, h.le, Nat.succ_le_of_lt h, e]
    · simp
    · simp [h.ne', Nat.not_le.2 h, Nat.not_le.2 (Nat.lt_succ_of_lt h)]

theorem read?_filter (m : Memory) (q : Nat → Bool) (i : Nat) :
    read? (m.filter fun c => q c.1) i = if q i = true then read? m i else none := by
  induction m with
  | nil => simp
  | cons c m ih =>
    obtain ⟨a, b⟩ := c
    rw [List.filter_cons]
    by_cases ha : a = i <;> by_cases hq : q a = true <;> simp_all [read?]

/-- A read after a write: the byte written inside the block, the old byte everywhere else. -/
theorem read?_write (m : Memory) (i j : Nat) (bs : List Byte) :
    read? (m.write i bs) j = if i ≤ j ∧ j < i + bs.length then bs[j - i]? else read? m j := by
  rw [write, read?_append, read?_append, read?_cells,
    read?_filter m (fun a => decide (a < i)), read?_filter m (fun a => decide (i + bs.length ≤ a))]
  by_cases h1 : i ≤ j
  · by_cases h2 : j < i + bs.length
    · have : j - i < bs.length := by omega
      simp [h1, h2, Nat.not_lt.2 h1, this]
    · have : bs.length ≤ j - i := by omega
      simp [h1, h2, Nat.not_lt.2 h1, this, Nat.not_lt.1 h2]
  · have h3 : ¬ i + bs.length ≤ j := by omega
    simp [h1, h3, Nat.not_le.1 h1]

theorem read?_write_outside (m : Memory) (i j : Nat) (bs : List Byte) (h : j < i ∨ i + bs.length ≤ j) :
    read? (m.write i bs) j = read? m j := by
  rw [read?_write, if_neg (by omega)]

theorem read?_write_inside (m : Memory) (i k : Nat) (bs : List Byte) (h : k < bs.length) :
    read? (m.write i bs) (i + k) = bs[k]? := by
  rw [read?_write, if_pos (by omega), Nat.add_sub_cancel_left]

theorem read?_write_self (m : Memory) (i : Nat) (b : Byte) : read? (m.write i [b]) i = some b := by
  simpa using read?_write_inside m i 0 [b] (by simp)

theorem mem_cells {c : Host.Cell} {i : Nat} {bs : List Byte} (h : c ∈ cells i bs) :
    i ≤ c.1 ∧ c.1 < i + bs.length := by
  induction bs generalizing i with
  | nil => simp [cells] at h
  | cons b bs ih =>
    rcases List.mem_cons.1 h with rfl | h
    · simp
    · have := ih h
      simp only [List.length_cons]
      omega

theorem wf_cells (i : Nat) (bs : List Byte) : wf (cells i bs) := by
  induction bs generalizing i with
  | nil => exact List.Pairwise.nil
  | cons b bs ih => exact List.Pairwise.cons (fun c hc => (mem_cells hc).1) (ih (i + 1))

/-- Every write keeps the canonical form. -/
theorem wf_write {m : Memory} (h : wf m) (i : Nat) (bs : List Byte) : wf (m.write i bs) := by
  refine List.pairwise_append.2 ⟨List.pairwise_append.2 ⟨h.filter _, wf_cells i bs, ?_⟩, h.filter _, ?_⟩
  · intro x hx y hy
    have hx := List.of_mem_filter hx
    have hy := mem_cells hy
    simp only [decide_eq_true_eq] at hx
    omega
  · intro x hx y hy
    have hy := List.of_mem_filter hy
    simp only [decide_eq_true_eq] at hy
    rcases List.mem_append.1 hx with hx | hx
    · have hx := List.of_mem_filter hx
      simp only [decide_eq_true_eq] at hx
      omega
    · have hx := mem_cells hx
      omega

/-- A write that ends inside the capacity keeps the buffer inside it. -/
theorem within_write {m : Memory} {cap : Nat} (h : within m cap) (i : Nat) (bs : List Byte)
    (hi : i + bs.length ≤ cap) : within (m.write i bs) cap := by
  intro c hc
  rcases List.mem_append.1 hc with hc | hc
  · rcases List.mem_append.1 hc with hc | hc
    · exact h c (List.mem_of_mem_filter hc)
    · have := mem_cells hc
      omega
  · exact h c (List.mem_of_mem_filter hc)

end Sys2Proof.Machine.Memory
end

