-- ==== Sys2Proof/Laws/Operands.lean ====
section
/-! SUPPORT. The laws of the operand forms: what MemRead gives, the bounds of an assembled integer and of RESULT. -/

namespace Sys2Proof.Machine

@[simp] theorem memRead_length (s : State) (b : BufferId) (i n : Nat) : (s.memRead b i n).length = n := by
  simp [State.memRead]

theorem memRead_getElem? (s : State) (b : BufferId) (i n k : Nat) (h : k < n) :
    (s.memRead b i n)[k]? = some (s.byteAt b (i + k)) := by
  simp [State.memRead, h]

/-- MemRead depends on the buffer and the draw number of the free bytes only. -/
theorem memRead_congr {s t : State} {b : BufferId} (hb : t.buffer b = s.buffer b) (hr : t.resets = s.resets)
    (i n : Nat) : t.memRead b i n = s.memRead b i n := by
  simp only [State.memRead, State.byteAt, hb, hr]

theorem memRead_split (s : State) (b : BufferId) (i m n : Nat) :
    s.memRead b i (m + n) = s.memRead b i m ++ s.memRead b (i + m) n := by
  simp [State.memRead, List.range_add, List.map_map, Function.comp_def, Nat.add_assoc]

theorem allWritten_congr {s t : State} {b : BufferId} (hb : t.buffer b = s.buffer b) (i n : Nat) :
    t.allWritten b i n = s.allWritten b i n := by
  simp only [State.allWritten, hb]

/-- noteRead changes the model's own record and nothing else. -/
theorem noteRead_of_allWritten {s : State} {b : BufferId} {i n : Nat} (h : s.allWritten b i n = true) :
    s.noteRead b i n = s := by
  simp [State.noteRead, h]

@[simp] theorem be_nil : be [] = 0 := rfl

theorem be_append_singleton (d : List Byte) (b : Byte) : be (d ++ [b]) = be d * 256 + b.toNat := by
  simp [be]

@[simp] theorem le_nil : le [] = 0 := rfl

@[simp] theorem le_cons (b : Byte) (d : List Byte) : le (b :: d) = b.toNat + 256 * le d := rfl

theorem le_lt (d : List Byte) : le d < 256 ^ d.length := by
  induction d with
  | nil => simp
  | cons b d ih =>
    have := b.isLt
    rw [le_cons, List.length_cons, Nat.pow_succ]
    omega

theorem be_lt (d : List Byte) : be d < 256 ^ d.length := by
  induction d using List.reverseRecOn with
  | nil => simp
  | append_singleton d b ih =>
    have := b.isLt
    rw [be_append_singleton, List.length_append, List.length_singleton, Nat.pow_succ]
    omega

theorem intOf_lt (o : ByteOrder) (d : List Byte) : intOf o d < 256 ^ d.length := by
  cases o
  · exact be_lt d
  · exact le_lt d

theorem pow_256 (n : Nat) : 256 ^ n = 2 ^ (8 * n) := by
  rw [Nat.pow_mul]

/-- RESULT fits its width (R32, R139). -/
theorem resultImage_lt {m n u : Nat} (signed : Bool) (hn : n ≤ m) (hu : u < 2 ^ (8 * n)) :
    resultImage m signed u n < 2 ^ (8 * m) := by
  have h : 2 ^ (8 * n) ≤ 2 ^ (8 * m) := Nat.pow_le_pow_right (by decide) (by omega)
  unfold resultImage signedImage
  split
  · split <;> omega
  · omega

end Sys2Proof.Machine
end

