-- ==== Sys2Proof/Laws/Wire.lean ====
section
/-! SUPPORT. The laws of the wire format: lengths, a body as its first chunk record and the rest, what legal operands
say. -/

namespace Sys2Proof.Machine

@[simp] theorem reorder_nil : reorder [] = [] := rfl

@[simp] theorem reorder_group (a b c d : Byte) (rest : List Byte) :
    reorder (a :: b :: c :: d :: rest) = d :: c :: b :: a :: reorder rest := rfl

@[simp] theorem reorder_length (chunk : List Byte) : (reorder chunk).length = chunk.length := by
  induction chunk using reorder.induct with
  | case1 a b c d rest ih => simp [ih]
  | case2 short h =>
    rw [reorder.eq_def]
    split
    · exact absurd rfl (h _ _ _ _ _)
    · simp

@[simp] theorem transmitted_length (o : Bool) (chunk : List Byte) : (transmitted o chunk).length = chunk.length := by
  unfold transmitted
  split <;> simp

@[simp] theorem chunkRecord_length (o : Bool) (chunk : List Byte) :
    (chunkRecord o chunk).length = chunk.length + 2 := by
  simp [chunkRecord, checkBytes_length]

@[simp] theorem header_length (n a p t : Nat) (r : Bool) : (header n a p t r).length = 7 := rfl

@[simp] theorem packetBody_nil (o : Bool) : packetBody o [] = [] := rfl

theorem chunkOf_zero (d : List Byte) : chunkOf d 0 = d.take 128 := by
  simp [chunkOf]

theorem chunkOf_succ (d : List Byte) (k : Nat) : chunkOf d (k + 1) = chunkOf (d.drop 128) k := by
  simp [chunkOf, Nat.mul_add, Nat.add_comm]

theorem numChunks_drop (d : List Byte) (h : d ≠ []) : numChunks d.length = numChunks (d.drop 128).length + 1 := by
  have := List.length_pos_iff.2 h
  simp only [numChunks, Config.chunkMax, List.length_drop]
  omega

/-- The chunks of a payload that is not empty: the first one, then those of the rest. -/
theorem flatMap_chunks (f : List Byte → List Byte) (d : List Byte) (h : d ≠ []) :
    (List.range (numChunks d.length)).flatMap (fun k => f (chunkOf d k)) =
      f (d.take 128) ++ (List.range (numChunks (d.drop 128).length)).flatMap fun k => f (chunkOf (d.drop 128) k) := by
  rw [numChunks_drop d h, List.range_succ_eq_map, List.flatMap_cons, chunkOf_zero, List.flatMap_map]
  simp only [chunkOf_succ]

theorem packetBody_step (o : Bool) (d : List Byte) (h : d ≠ []) :
    packetBody o d = chunkRecord o (d.take 128) ++ packetBody o (d.drop 128) :=
  flatMap_chunks (chunkRecord o) d h

/-- The formula of R80 with its numbers. -/
theorem bodySize_eq (n : Nat) : bodySize n = n / 128 * 130 + if n % 128 > 0 then n % 128 + 2 else 0 := rfl

theorem bodySize_step (n : Nat) (h : 0 < n) : bodySize n = min 128 n + 2 + bodySize (n - min 128 n) := by
  rw [bodySize_eq, bodySize_eq]
  split <;> split <;> omega

@[simp] theorem bodySize_zero : bodySize 0 = 0 := rfl

theorem packetBody_length (o : Bool) (d : List Byte) : (packetBody o d).length = bodySize d.length := by
  induction h : d.length using Nat.strong_induction_on generalizing d with
  | _ n ih =>
    subst h
    by_cases hd : d = []
    · rw [hd, packetBody_nil, List.length_nil, bodySize_zero]
    · have hpos := List.length_pos_iff.2 hd
      rw [packetBody_step o d hd, List.length_append, chunkRecord_length, List.length_take,
        ih (d.drop 128).length (by rw [List.length_drop]; omega) _ rfl, bodySize_step d.length hpos, List.length_drop,
        show d.length - min 128 d.length = d.length - 128 by omega]

theorem packet_length (a p t : Nat) (r o : Bool) (d : List Byte) :
    (packet a p t r o d).length = packetLen d.length := by
  simp [packet, packetBody_length, packetLen]

theorem bodySize_le (n : Nat) (h : n ≤ 2047) : bodySize n ≤ 2079 := by
  rw [bodySize_eq]
  split <;> omega

theorem packetLen_le (n : Nat) (h : n ≤ 2047) : packetLen n ≤ 2086 := by
  have := bodySize_le n h
  simp only [packetLen, Config.hdrLen]
  omega

/-- Legal operands as inequalities (R106). -/
theorem legalOperands_iff (a p t : Nat) (r : Bool) (n : Nat) :
    legalOperands a p t r n = true ↔
      a ≤ 31 ∧ p ≤ 255 ∧ t ≤ 255 ∧ ¬(a = 0 ∧ r = true) ∧ n ≤ 2047 := by
  simp only [legalOperands, Config.addrMax, Config.portMax, Config.tokenMax, Config.cmdMax, Bool.and_eq_true,
    decide_eq_true_eq, Bool.not_eq_true', Bool.and_eq_false_iff, decide_eq_false_iff_not, not_and_or,
    Bool.not_eq_true, and_assoc]

end Sys2Proof.Machine
end

