-- ==== Sys2Proof/Laws/Enc.lean ====
section
/-! SUPPORT. What ENC.RUN's parts do: when validation passes, which bytes of PBUF each part writes, that the written
buffer stays canonical. -/

namespace Sys2Proof.Machine

/-- Validation passes exactly on legal operands (R106). -/
theorem encFault_eq_none_iff (s : State) :
    s.encFault = none ↔
      legalOperands s.address.toNat s.port.toNat s.token.toNat s.respExp s.cmdSize.toNat = true := by
  rw [legalOperands_iff]
  unfold State.encFault
  simp only [Config.addrMax, Config.portMax, Config.tokenMax, Config.cmdMax]
  split_ifs <;> simp_all

/-- One turn of the loop, byte by byte: the chunk record inside, the old byte outside. -/
theorem read?_encChunk (s : State) (w i len j : Nat) (m : Memory) :
    Memory.read? (s.encChunk w i len m) j =
      if w ≤ j ∧ j < w + (len + 2) then (chunkRecord s.propcr (s.memRead .cbuf i len))[j - w]? else Memory.read? m j := by
  have hl : (transmitted s.propcr (s.memRead .cbuf i len)).length = len := by simp
  simp only [State.encChunk, Memory.read?_write, hl, checkBytes_length, chunkRecord]
  by_cases h1 : w + len ≤ j ∧ j < w + len + 2
  · rw [if_pos h1, if_pos (by omega), List.getElem?_append_right (by omega), hl]
    congr 1
    omega
  · rw [if_neg h1]
    by_cases h2 : w ≤ j ∧ j < w + len
    · rw [if_pos h2, if_pos (by omega), List.getElem?_append_left (by omega)]
    · rw [if_neg h2, if_neg (by omega)]

/-- The loop of R109 from payload index i, byte by byte: the body of the payload's rest at w, the old byte
elsewhere. -/
theorem read?_encBody (s : State) (turns w i : Nat) (m : Memory) (h : s.cmdSize.toNat - i ≤ 128 * turns) (j : Nat) :
    Memory.read? (s.encBody turns w i m) j =
      if w ≤ j ∧ j < w + bodySize (s.cmdSize.toNat - i) then
        (packetBody s.propcr (s.memRead .cbuf i (s.cmdSize.toNat - i)))[j - w]?
      else Memory.read? m j := by
  induction turns generalizing w i m with
  | zero =>
    have e : s.cmdSize.toNat - i = 0 := by omega
    rw [State.encBody, e, bodySize_zero, if_neg (by omega)]
  | succ turns ih =>
    rw [State.encBody]
    by_cases hi : i < s.cmdSize.toNat
    · have hb := bodySize_step (s.cmdSize.toNat - i) (by omega)
      have hne : s.memRead .cbuf i (s.cmdSize.toNat - i) ≠ [] := by
        rw [← List.length_pos_iff, memRead_length]
        omega
      have hs : s.cmdSize.toNat - i = min 128 (s.cmdSize.toNat - i) + (s.cmdSize.toNat - i - min 128 (s.cmdSize.toNat - i)) := by
        omega
      have htake : (s.memRead .cbuf i (s.cmdSize.toNat - i)).take 128 =
          s.memRead .cbuf i (min 128 (s.cmdSize.toNat - i)) := by
        simp [State.memRead, ← List.map_take, List.take_range]
      have hdrop : (s.memRead .cbuf i (s.cmdSize.toNat - i)).drop 128 =
          s.memRead .cbuf (i + min 128 (s.cmdSize.toNat - i)) (s.cmdSize.toNat - (i + min 128 (s.cmdSize.toNat - i))) := by
        conv => lhs; rw [hs, memRead_split]
        rw [List.drop_append]
        by_cases h128 : 128 ≤ s.cmdSize.toNat - i
        · simp [Nat.min_eq_left h128, Nat.sub_sub]
        · have e : min 128 (s.cmdSize.toNat - i) = s.cmdSize.toNat - i := by omega
          rw [e, Nat.sub_self, Nat.sub_eq_zero_of_le (show s.cmdSize.toNat ≤ i + (s.cmdSize.toNat - i) by omega)]
          simp [State.memRead]
          omega
      simp only [hi, if_true, Config.chunkMax, Config.chkLen]
      rw [ih _ _ _ (by omega), read?_encChunk, packetBody_step _ _ hne, htake, hdrop]
      generalize hL : min 128 (s.cmdSize.toNat - i) = len at *
      have hcl : (chunkRecord s.propcr (s.memRead .cbuf i len)).length = len + 2 := by simp
      rw [show s.cmdSize.toNat - (i + len) = s.cmdSize.toNat - i - len by omega]
      by_cases h1 : w + len + 2 ≤ j ∧ j < w + len + 2 + bodySize (s.cmdSize.toNat - i - len)
      · rw [if_pos h1, if_pos (by omega), List.getElem?_append_right (by omega), hcl]
        congr 1
        omega
      · rw [if_neg h1]
        by_cases h2 : w ≤ j ∧ j < w + (len + 2)
        · rw [if_pos h2, if_pos (by omega), List.getElem?_append_left (by omega)]
        · rw [if_neg h2, if_neg (by omega)]
    · have e : s.cmdSize.toNat - i = 0 := by omega
      rw [if_neg hi, e, bodySize_zero, if_neg (by omega)]

/-- PBUF after ENC.RUN's output, byte by byte: the packet of the operands from index 0, the old byte beyond it. -/
theorem read?_encOutput (s : State) (h : s.cmdSize.toNat ≤ 2047) (j : Nat) :
    Memory.read? s.encOutput.pbuf j =
      if j < packetLen s.cmdSize.toNat then
        (packet s.address.toNat s.port.toNat s.token.toNat s.respExp s.propcr
          (s.memRead .cbuf 0 s.cmdSize.toNat))[j]?
      else Memory.read? s.pbuf j := by
  have hb := read?_encBody s 16 7 0 (s.encHeader s.pbuf) (by omega) j
  have hh : Memory.read? (s.encHeader s.pbuf) j = if j < 7 then
      (header s.cmdSize.toNat s.address.toNat s.port.toNat s.token.toNat s.respExp)[j]? else Memory.read? s.pbuf j := by
    simp [State.encHeader, Memory.read?_write]
  simp only [State.encOutput, Config.maxChunks, Config.hdrLen, hb, hh, packetLen, packet, memRead_length, Nat.sub_zero]
  by_cases h1 : j < 7
  · rw [if_neg (by omega), if_pos h1, if_pos (by omega), List.getElem?_append_left (by simpa using h1)]
  · by_cases h2 : j < 7 + bodySize s.cmdSize.toNat
    · rw [if_pos (by omega), if_pos h2, List.getElem?_append_right (by simpa using h1), header_length]
    · rw [if_neg (by omega), if_neg h1, if_neg h2]

theorem encOutput_pktLen_toNat (s : State) (h : s.cmdSize.toNat ≤ 2047) :
    s.encOutput.pktLen.toNat = packetLen s.cmdSize.toNat := by
  have := packetLen_le _ h
  simp only [State.encOutput, BitVec.toNat_ofNat]
  omega

/-- The loop keeps the buffer canonical. -/
theorem wf_encBody (s : State) (turns w i : Nat) {m : Memory} (h : Memory.wf m) : Memory.wf (s.encBody turns w i m) := by
  induction turns generalizing w i m with
  | zero => exact h
  | succ turns ih =>
    rw [State.encBody]
    split
    · exact ih _ _ (Memory.wf_write (Memory.wf_write h _ _) _ _)
    · exact h

/-- The loop stays inside any capacity that holds the body. -/
theorem within_encBody (s : State) (turns w i cap : Nat) {m : Memory} (h : Memory.within m cap)
    (hcap : w + bodySize (s.cmdSize.toNat - i) ≤ cap) : Memory.within (s.encBody turns w i m) cap := by
  induction turns generalizing w i m with
  | zero => exact h
  | succ turns ih =>
    rw [State.encBody]
    split
    · have hb := bodySize_step (s.cmdSize.toNat - i) (by omega)
      simp only [Config.chunkMax, Config.chkLen] at *
      refine ih _ _ (Memory.within_write (Memory.within_write h _ _ ?_) _ _ ?_) ?_
      · simp; omega
      · simp [checkBytes_length]; omega
      · rw [show s.cmdSize.toNat - (i + min 128 (s.cmdSize.toNat - i)) =
          s.cmdSize.toNat - i - min 128 (s.cmdSize.toNat - i) by omega]
        omega
    · exact h

end Sys2Proof.Machine
end

