-- ==== Sys2Proof/Laws/State.lean ====
section
/-! SUPPORT. One lemma per field of State per update of it, each true by rfl, so that no proof unfolds a record
update. -/

namespace Sys2Proof.Machine.State

variable (s : State)

/-! complete -/

@[simp] theorem complete_lower : (s.complete).lower = s.lower := rfl
@[simp] theorem complete_upper : (s.complete).upper = s.upper := rfl
@[simp] theorem complete_address : (s.complete).address = s.address := rfl
@[simp] theorem complete_port : (s.complete).port = s.port := rfl
@[simp] theorem complete_token : (s.complete).token = s.token := rfl
@[simp] theorem complete_flags : (s.complete).flags = s.flags := rfl
@[simp] theorem complete_cmdSize : (s.complete).cmdSize = s.cmdSize := rfl
@[simp] theorem complete_pktLen : (s.complete).pktLen = s.pktLen := rfl
@[simp] theorem complete_cbuf : (s.complete).cbuf = s.cbuf := rfl
@[simp] theorem complete_pbuf : (s.complete).pbuf = s.pbuf := rfl
@[simp] theorem complete_rbuf : (s.complete).rbuf = s.rbuf := rfl
@[simp] theorem complete_respLen : (s.complete).respLen = s.respLen := rfl
@[simp] theorem complete_argIndex : (s.complete).argIndex = s.argIndex := rfl
@[simp] theorem complete_dopen : (s.complete).dopen = s.dopen := rfl
@[simp] theorem complete_result : (s.complete).result = s.result := rfl
@[simp] theorem complete_strOff : (s.complete).strOff = s.strOff := rfl
@[simp] theorem complete_strLen : (s.complete).strLen = s.strLen := rfl
@[simp] theorem complete_fail : (s.complete).fail = false := rfl
@[simp] theorem complete_eany : (s.complete).eany = s.eany := rfl
@[simp] theorem complete_errCode : (s.complete).errCode = s.errCode := rfl
@[simp] theorem complete_errField : (s.complete).errField = s.errField := rfl
@[simp] theorem complete_errValue : (s.complete).errValue = s.errValue := rfl
@[simp] theorem complete_errMin : (s.complete).errMin = s.errMin := rfl
@[simp] theorem complete_errMax : (s.complete).errMax = s.errMax := rfl
@[simp] theorem complete_params : (s.complete).params = s.params := rfl
@[simp] theorem complete_queue : (s.complete).queue = s.queue := rfl
@[simp] theorem complete_answer : (s.complete).answer = s.answer := rfl
@[simp] theorem complete_resets : (s.complete).resets = s.resets := rfl
@[simp] theorem complete_readOfUnwritten : (s.complete).readOfUnwritten = s.readOfUnwritten := rfl

/-! raise -/

@[simp] theorem raise_lower (c : Bool) (k : Cause) (f : ErrField) (v lo hi : Nat) : (s.raise c k f v lo hi).lower = s.lower := rfl
@[simp] theorem raise_upper (c : Bool) (k : Cause) (f : ErrField) (v lo hi : Nat) : (s.raise c k f v lo hi).upper = s.upper := rfl
@[simp] theorem raise_address (c : Bool) (k : Cause) (f : ErrField) (v lo hi : Nat) : (s.raise c k f v lo hi).address = s.address := rfl
@[simp] theorem raise_port (c : Bool) (k : Cause) (f : ErrField) (v lo hi : Nat) : (s.raise c k f v lo hi).port = s.port := rfl
@[simp] theorem raise_token (c : Bool) (k : Cause) (f : ErrField) (v lo hi : Nat) : (s.raise c k f v lo hi).token = s.token := rfl
@[simp] theorem raise_flags (c : Bool) (k : Cause) (f : ErrField) (v lo hi : Nat) : (s.raise c k f v lo hi).flags = s.flags := rfl
@[simp] theorem raise_cmdSize (c : Bool) (k : Cause) (f : ErrField) (v lo hi : Nat) : (s.raise c k f v lo hi).cmdSize = s.cmdSize := rfl
@[simp] theorem raise_pktLen (c : Bool) (k : Cause) (f : ErrField) (v lo hi : Nat) : (s.raise c k f v lo hi).pktLen = s.pktLen := rfl
@[simp] theorem raise_cbuf (c : Bool) (k : Cause) (f : ErrField) (v lo hi : Nat) : (s.raise c k f v lo hi).cbuf = s.cbuf := rfl
@[simp] theorem raise_pbuf (c : Bool) (k : Cause) (f : ErrField) (v lo hi : Nat) : (s.raise c k f v lo hi).pbuf = s.pbuf := rfl
@[simp] theorem raise_rbuf (c : Bool) (k : Cause) (f : ErrField) (v lo hi : Nat) : (s.raise c k f v lo hi).rbuf = s.rbuf := rfl
@[simp] theorem raise_respLen (c : Bool) (k : Cause) (f : ErrField) (v lo hi : Nat) : (s.raise c k f v lo hi).respLen = s.respLen := rfl
@[simp] theorem raise_argIndex (c : Bool) (k : Cause) (f : ErrField) (v lo hi : Nat) : (s.raise c k f v lo hi).argIndex = s.argIndex := rfl
@[simp] theorem raise_dopen (c : Bool) (k : Cause) (f : ErrField) (v lo hi : Nat) : (s.raise c k f v lo hi).dopen = s.dopen := rfl
@[simp] theorem raise_result (c : Bool) (k : Cause) (f : ErrField) (v lo hi : Nat) : (s.raise c k f v lo hi).result = s.result := rfl
@[simp] theorem raise_strOff (c : Bool) (k : Cause) (f : ErrField) (v lo hi : Nat) : (s.raise c k f v lo hi).strOff = s.strOff := rfl
@[simp] theorem raise_strLen (c : Bool) (k : Cause) (f : ErrField) (v lo hi : Nat) : (s.raise c k f v lo hi).strLen = s.strLen := rfl
@[simp] theorem raise_fail (c : Bool) (k : Cause) (f : ErrField) (v lo hi : Nat) : (s.raise c k f v lo hi).fail = (c || s.fail) := rfl
@[simp] theorem raise_eany (c : Bool) (k : Cause) (f : ErrField) (v lo hi : Nat) : (s.raise c k f v lo hi).eany = true := rfl
@[simp] theorem raise_errCode (c : Bool) (k : Cause) (f : ErrField) (v lo hi : Nat) : (s.raise c k f v lo hi).errCode = k.code := rfl
@[simp] theorem raise_errField (c : Bool) (k : Cause) (f : ErrField) (v lo hi : Nat) : (s.raise c k f v lo hi).errField = f.code := rfl
@[simp] theorem raise_errValue (c : Bool) (k : Cause) (f : ErrField) (v lo hi : Nat) : (s.raise c k f v lo hi).errValue = BitVec.ofNat 32 v := rfl
@[simp] theorem raise_errMin (c : Bool) (k : Cause) (f : ErrField) (v lo hi : Nat) : (s.raise c k f v lo hi).errMin = BitVec.ofNat 32 lo := rfl
@[simp] theorem raise_errMax (c : Bool) (k : Cause) (f : ErrField) (v lo hi : Nat) : (s.raise c k f v lo hi).errMax = BitVec.ofNat 32 hi := rfl
@[simp] theorem raise_params (c : Bool) (k : Cause) (f : ErrField) (v lo hi : Nat) : (s.raise c k f v lo hi).params = s.params := rfl
@[simp] theorem raise_queue (c : Bool) (k : Cause) (f : ErrField) (v lo hi : Nat) : (s.raise c k f v lo hi).queue = s.queue := rfl
@[simp] theorem raise_answer (c : Bool) (k : Cause) (f : ErrField) (v lo hi : Nat) : (s.raise c k f v lo hi).answer = s.answer := rfl
@[simp] theorem raise_resets (c : Bool) (k : Cause) (f : ErrField) (v lo hi : Nat) : (s.raise c k f v lo hi).resets = s.resets := rfl
@[simp] theorem raise_readOfUnwritten (c : Bool) (k : Cause) (f : ErrField) (v lo hi : Nat) : (s.raise c k f v lo hi).readOfUnwritten = s.readOfUnwritten := rfl

/-! clearRecord -/

@[simp] theorem clearRecord_lower : (s.clearRecord).lower = s.lower := rfl
@[simp] theorem clearRecord_upper : (s.clearRecord).upper = s.upper := rfl
@[simp] theorem clearRecord_address : (s.clearRecord).address = s.address := rfl
@[simp] theorem clearRecord_port : (s.clearRecord).port = s.port := rfl
@[simp] theorem clearRecord_token : (s.clearRecord).token = s.token := rfl
@[simp] theorem clearRecord_flags : (s.clearRecord).flags = s.flags := rfl
@[simp] theorem clearRecord_cmdSize : (s.clearRecord).cmdSize = s.cmdSize := rfl
@[simp] theorem clearRecord_pktLen : (s.clearRecord).pktLen = s.pktLen := rfl
@[simp] theorem clearRecord_cbuf : (s.clearRecord).cbuf = s.cbuf := rfl
@[simp] theorem clearRecord_pbuf : (s.clearRecord).pbuf = s.pbuf := rfl
@[simp] theorem clearRecord_rbuf : (s.clearRecord).rbuf = s.rbuf := rfl
@[simp] theorem clearRecord_respLen : (s.clearRecord).respLen = s.respLen := rfl
@[simp] theorem clearRecord_argIndex : (s.clearRecord).argIndex = s.argIndex := rfl
@[simp] theorem clearRecord_dopen : (s.clearRecord).dopen = s.dopen := rfl
@[simp] theorem clearRecord_result : (s.clearRecord).result = s.result := rfl
@[simp] theorem clearRecord_strOff : (s.clearRecord).strOff = s.strOff := rfl
@[simp] theorem clearRecord_strLen : (s.clearRecord).strLen = s.strLen := rfl
@[simp] theorem clearRecord_fail : (s.clearRecord).fail = s.fail := rfl
@[simp] theorem clearRecord_eany : (s.clearRecord).eany = false := rfl
@[simp] theorem clearRecord_errCode : (s.clearRecord).errCode = 0 := rfl
@[simp] theorem clearRecord_errField : (s.clearRecord).errField = 0 := rfl
@[simp] theorem clearRecord_errValue : (s.clearRecord).errValue = 0 := rfl
@[simp] theorem clearRecord_errMin : (s.clearRecord).errMin = 0 := rfl
@[simp] theorem clearRecord_errMax : (s.clearRecord).errMax = 0 := rfl
@[simp] theorem clearRecord_params : (s.clearRecord).params = s.params := rfl
@[simp] theorem clearRecord_queue : (s.clearRecord).queue = s.queue := rfl
@[simp] theorem clearRecord_answer : (s.clearRecord).answer = s.answer := rfl
@[simp] theorem clearRecord_resets : (s.clearRecord).resets = s.resets := rfl
@[simp] theorem clearRecord_readOfUnwritten : (s.clearRecord).readOfUnwritten = s.readOfUnwritten := rfl

/-! closeTransaction -/

@[simp] theorem closeTransaction_lower : (s.closeTransaction).lower = s.lower := rfl
@[simp] theorem closeTransaction_upper : (s.closeTransaction).upper = s.upper := rfl
@[simp] theorem closeTransaction_address : (s.closeTransaction).address = s.address := rfl
@[simp] theorem closeTransaction_port : (s.closeTransaction).port = s.port := rfl
@[simp] theorem closeTransaction_token : (s.closeTransaction).token = s.token := rfl
@[simp] theorem closeTransaction_flags : (s.closeTransaction).flags = s.flags := rfl
@[simp] theorem closeTransaction_cmdSize : (s.closeTransaction).cmdSize = s.cmdSize := rfl
@[simp] theorem closeTransaction_pktLen : (s.closeTransaction).pktLen = s.pktLen := rfl
@[simp] theorem closeTransaction_cbuf : (s.closeTransaction).cbuf = s.cbuf := rfl
@[simp] theorem closeTransaction_pbuf : (s.closeTransaction).pbuf = s.pbuf := rfl
@[simp] theorem closeTransaction_rbuf : (s.closeTransaction).rbuf = s.rbuf := rfl
@[simp] theorem closeTransaction_respLen : (s.closeTransaction).respLen = s.respLen := rfl
@[simp] theorem closeTransaction_argIndex : (s.closeTransaction).argIndex = s.argIndex := rfl
@[simp] theorem closeTransaction_dopen : (s.closeTransaction).dopen = false := rfl
@[simp] theorem closeTransaction_result : (s.closeTransaction).result = s.result := rfl
@[simp] theorem closeTransaction_strOff : (s.closeTransaction).strOff = s.strOff := rfl
@[simp] theorem closeTransaction_strLen : (s.closeTransaction).strLen = s.strLen := rfl
@[simp] theorem closeTransaction_fail : (s.closeTransaction).fail = s.fail := rfl
@[simp] theorem closeTransaction_eany : (s.closeTransaction).eany = s.eany := rfl
@[simp] theorem closeTransaction_errCode : (s.closeTransaction).errCode = s.errCode := rfl
@[simp] theorem closeTransaction_errField : (s.closeTransaction).errField = s.errField := rfl
@[simp] theorem closeTransaction_errValue : (s.closeTransaction).errValue = s.errValue := rfl
@[simp] theorem closeTransaction_errMin : (s.closeTransaction).errMin = s.errMin := rfl
@[simp] theorem closeTransaction_errMax : (s.closeTransaction).errMax = s.errMax := rfl
@[simp] theorem closeTransaction_params : (s.closeTransaction).params = s.params := rfl
@[simp] theorem closeTransaction_queue : (s.closeTransaction).queue = s.queue := rfl
@[simp] theorem closeTransaction_answer : (s.closeTransaction).answer = s.answer := rfl
@[simp] theorem closeTransaction_resets : (s.closeTransaction).resets = s.resets := rfl
@[simp] theorem closeTransaction_readOfUnwritten : (s.closeTransaction).readOfUnwritten = s.readOfUnwritten := rfl

/-! noteRead -/

@[simp] theorem noteRead_lower (b : BufferId) (i n : Nat) : (s.noteRead b i n).lower = s.lower := rfl
@[simp] theorem noteRead_upper (b : BufferId) (i n : Nat) : (s.noteRead b i n).upper = s.upper := rfl
@[simp] theorem noteRead_address (b : BufferId) (i n : Nat) : (s.noteRead b i n).address = s.address := rfl
@[simp] theorem noteRead_port (b : BufferId) (i n : Nat) : (s.noteRead b i n).port = s.port := rfl
@[simp] theorem noteRead_token (b : BufferId) (i n : Nat) : (s.noteRead b i n).token = s.token := rfl
@[simp] theorem noteRead_flags (b : BufferId) (i n : Nat) : (s.noteRead b i n).flags = s.flags := rfl
@[simp] theorem noteRead_cmdSize (b : BufferId) (i n : Nat) : (s.noteRead b i n).cmdSize = s.cmdSize := rfl
@[simp] theorem noteRead_pktLen (b : BufferId) (i n : Nat) : (s.noteRead b i n).pktLen = s.pktLen := rfl
@[simp] theorem noteRead_cbuf (b : BufferId) (i n : Nat) : (s.noteRead b i n).cbuf = s.cbuf := rfl
@[simp] theorem noteRead_pbuf (b : BufferId) (i n : Nat) : (s.noteRead b i n).pbuf = s.pbuf := rfl
@[simp] theorem noteRead_rbuf (b : BufferId) (i n : Nat) : (s.noteRead b i n).rbuf = s.rbuf := rfl
@[simp] theorem noteRead_respLen (b : BufferId) (i n : Nat) : (s.noteRead b i n).respLen = s.respLen := rfl
@[simp] theorem noteRead_argIndex (b : BufferId) (i n : Nat) : (s.noteRead b i n).argIndex = s.argIndex := rfl
@[simp] theorem noteRead_dopen (b : BufferId) (i n : Nat) : (s.noteRead b i n).dopen = s.dopen := rfl
@[simp] theorem noteRead_result (b : BufferId) (i n : Nat) : (s.noteRead b i n).result = s.result := rfl
@[simp] theorem noteRead_strOff (b : BufferId) (i n : Nat) : (s.noteRead b i n).strOff = s.strOff := rfl
@[simp] theorem noteRead_strLen (b : BufferId) (i n : Nat) : (s.noteRead b i n).strLen = s.strLen := rfl
@[simp] theorem noteRead_fail (b : BufferId) (i n : Nat) : (s.noteRead b i n).fail = s.fail := rfl
@[simp] theorem noteRead_eany (b : BufferId) (i n : Nat) : (s.noteRead b i n).eany = s.eany := rfl
@[simp] theorem noteRead_errCode (b : BufferId) (i n : Nat) : (s.noteRead b i n).errCode = s.errCode := rfl
@[simp] theorem noteRead_errField (b : BufferId) (i n : Nat) : (s.noteRead b i n).errField = s.errField := rfl
@[simp] theorem noteRead_errValue (b : BufferId) (i n : Nat) : (s.noteRead b i n).errValue = s.errValue := rfl
@[simp] theorem noteRead_errMin (b : BufferId) (i n : Nat) : (s.noteRead b i n).errMin = s.errMin := rfl
@[simp] theorem noteRead_errMax (b : BufferId) (i n : Nat) : (s.noteRead b i n).errMax = s.errMax := rfl
@[simp] theorem noteRead_params (b : BufferId) (i n : Nat) : (s.noteRead b i n).params = s.params := rfl
@[simp] theorem noteRead_queue (b : BufferId) (i n : Nat) : (s.noteRead b i n).queue = s.queue := rfl
@[simp] theorem noteRead_answer (b : BufferId) (i n : Nat) : (s.noteRead b i n).answer = s.answer := rfl
@[simp] theorem noteRead_resets (b : BufferId) (i n : Nat) : (s.noteRead b i n).resets = s.resets := rfl
@[simp] theorem noteRead_readOfUnwritten (b : BufferId) (i n : Nat) : (s.noteRead b i n).readOfUnwritten = (s.readOfUnwritten || !s.allWritten b i n) := rfl

/-! absorb -/

@[simp] theorem absorb_lower (b : Byte) : (s.absorb b).lower = BitVec.ofNat 8 (absorbLower s.lower b) := rfl
@[simp] theorem absorb_upper (b : Byte) : (s.absorb b).upper = BitVec.ofNat 8 (absorbUpper s.lower s.upper b) := rfl
@[simp] theorem absorb_address (b : Byte) : (s.absorb b).address = s.address := rfl
@[simp] theorem absorb_port (b : Byte) : (s.absorb b).port = s.port := rfl
@[simp] theorem absorb_token (b : Byte) : (s.absorb b).token = s.token := rfl
@[simp] theorem absorb_flags (b : Byte) : (s.absorb b).flags = s.flags := rfl
@[simp] theorem absorb_cmdSize (b : Byte) : (s.absorb b).cmdSize = s.cmdSize := rfl
@[simp] theorem absorb_pktLen (b : Byte) : (s.absorb b).pktLen = s.pktLen := rfl
@[simp] theorem absorb_cbuf (b : Byte) : (s.absorb b).cbuf = s.cbuf := rfl
@[simp] theorem absorb_pbuf (b : Byte) : (s.absorb b).pbuf = s.pbuf := rfl
@[simp] theorem absorb_rbuf (b : Byte) : (s.absorb b).rbuf = s.rbuf := rfl
@[simp] theorem absorb_respLen (b : Byte) : (s.absorb b).respLen = s.respLen := rfl
@[simp] theorem absorb_argIndex (b : Byte) : (s.absorb b).argIndex = s.argIndex := rfl
@[simp] theorem absorb_dopen (b : Byte) : (s.absorb b).dopen = s.dopen := rfl
@[simp] theorem absorb_result (b : Byte) : (s.absorb b).result = s.result := rfl
@[simp] theorem absorb_strOff (b : Byte) : (s.absorb b).strOff = s.strOff := rfl
@[simp] theorem absorb_strLen (b : Byte) : (s.absorb b).strLen = s.strLen := rfl
@[simp] theorem absorb_fail (b : Byte) : (s.absorb b).fail = s.fail := rfl
@[simp] theorem absorb_eany (b : Byte) : (s.absorb b).eany = s.eany := rfl
@[simp] theorem absorb_errCode (b : Byte) : (s.absorb b).errCode = s.errCode := rfl
@[simp] theorem absorb_errField (b : Byte) : (s.absorb b).errField = s.errField := rfl
@[simp] theorem absorb_errValue (b : Byte) : (s.absorb b).errValue = s.errValue := rfl
@[simp] theorem absorb_errMin (b : Byte) : (s.absorb b).errMin = s.errMin := rfl
@[simp] theorem absorb_errMax (b : Byte) : (s.absorb b).errMax = s.errMax := rfl
@[simp] theorem absorb_params (b : Byte) : (s.absorb b).params = s.params := rfl
@[simp] theorem absorb_queue (b : Byte) : (s.absorb b).queue = s.queue := rfl
@[simp] theorem absorb_answer (b : Byte) : (s.absorb b).answer = s.answer := rfl
@[simp] theorem absorb_resets (b : Byte) : (s.absorb b).resets = s.resets := rfl
@[simp] theorem absorb_readOfUnwritten (b : Byte) : (s.absorb b).readOfUnwritten = s.readOfUnwritten := rfl

/-! encOutput -/

@[simp] theorem encOutput_lower : (s.encOutput).lower = s.lower := rfl
@[simp] theorem encOutput_upper : (s.encOutput).upper = s.upper := rfl
@[simp] theorem encOutput_address : (s.encOutput).address = s.address := rfl
@[simp] theorem encOutput_port : (s.encOutput).port = s.port := rfl
@[simp] theorem encOutput_token : (s.encOutput).token = s.token := rfl
@[simp] theorem encOutput_flags : (s.encOutput).flags = s.flags := rfl
@[simp] theorem encOutput_cmdSize : (s.encOutput).cmdSize = s.cmdSize := rfl
theorem encOutput_pktLen : (s.encOutput).pktLen = BitVec.ofNat 16 (packetLen s.cmdSize.toNat) := rfl
@[simp] theorem encOutput_cbuf : (s.encOutput).cbuf = s.cbuf := rfl
theorem encOutput_pbuf : (s.encOutput).pbuf = s.encBody Config.maxChunks Config.hdrLen 0 (s.encHeader s.pbuf) := rfl
@[simp] theorem encOutput_rbuf : (s.encOutput).rbuf = s.rbuf := rfl
@[simp] theorem encOutput_respLen : (s.encOutput).respLen = s.respLen := rfl
@[simp] theorem encOutput_argIndex : (s.encOutput).argIndex = s.argIndex := rfl
@[simp] theorem encOutput_dopen : (s.encOutput).dopen = s.dopen := rfl
@[simp] theorem encOutput_result : (s.encOutput).result = s.result := rfl
@[simp] theorem encOutput_strOff : (s.encOutput).strOff = s.strOff := rfl
@[simp] theorem encOutput_strLen : (s.encOutput).strLen = s.strLen := rfl
@[simp] theorem encOutput_fail : (s.encOutput).fail = s.fail := rfl
@[simp] theorem encOutput_eany : (s.encOutput).eany = s.eany := rfl
@[simp] theorem encOutput_errCode : (s.encOutput).errCode = s.errCode := rfl
@[simp] theorem encOutput_errField : (s.encOutput).errField = s.errField := rfl
@[simp] theorem encOutput_errValue : (s.encOutput).errValue = s.errValue := rfl
@[simp] theorem encOutput_errMin : (s.encOutput).errMin = s.errMin := rfl
@[simp] theorem encOutput_errMax : (s.encOutput).errMax = s.errMax := rfl
@[simp] theorem encOutput_params : (s.encOutput).params = s.params := rfl
@[simp] theorem encOutput_queue : (s.encOutput).queue = s.queue := rfl
@[simp] theorem encOutput_answer : (s.encOutput).answer = s.answer := rfl
@[simp] theorem encOutput_resets : (s.encOutput).resets = s.resets := rfl
@[simp] theorem encOutput_readOfUnwritten : (s.encOutput).readOfUnwritten = s.readOfUnwritten := rfl

/-! openTransaction -/

@[simp] theorem openTransaction_lower : (s.openTransaction).lower = s.lower := rfl
@[simp] theorem openTransaction_upper : (s.openTransaction).upper = s.upper := rfl
@[simp] theorem openTransaction_address : (s.openTransaction).address = s.address := rfl
@[simp] theorem openTransaction_port : (s.openTransaction).port = s.port := rfl
@[simp] theorem openTransaction_token : (s.openTransaction).token = s.token := rfl
@[simp] theorem openTransaction_flags : (s.openTransaction).flags = s.flags := rfl
@[simp] theorem openTransaction_cmdSize : (s.openTransaction).cmdSize = s.cmdSize := rfl
@[simp] theorem openTransaction_pktLen : (s.openTransaction).pktLen = s.pktLen := rfl
@[simp] theorem openTransaction_cbuf : (s.openTransaction).cbuf = s.cbuf := rfl
@[simp] theorem openTransaction_pbuf : (s.openTransaction).pbuf = s.pbuf := rfl
@[simp] theorem openTransaction_rbuf : (s.openTransaction).rbuf = s.rbuf := rfl
@[simp] theorem openTransaction_respLen : (s.openTransaction).respLen = s.respLen := rfl
@[simp] theorem openTransaction_argIndex : (s.openTransaction).argIndex = 0 := rfl
@[simp] theorem openTransaction_dopen : (s.openTransaction).dopen = true := rfl
@[simp] theorem openTransaction_result : (s.openTransaction).result = 0 := rfl
@[simp] theorem openTransaction_strOff : (s.openTransaction).strOff = 0 := rfl
@[simp] theorem openTransaction_strLen : (s.openTransaction).strLen = 0 := rfl
@[simp] theorem openTransaction_fail : (s.openTransaction).fail = s.fail := rfl
@[simp] theorem openTransaction_eany : (s.openTransaction).eany = s.eany := rfl
@[simp] theorem openTransaction_errCode : (s.openTransaction).errCode = s.errCode := rfl
@[simp] theorem openTransaction_errField : (s.openTransaction).errField = s.errField := rfl
@[simp] theorem openTransaction_errValue : (s.openTransaction).errValue = s.errValue := rfl
@[simp] theorem openTransaction_errMin : (s.openTransaction).errMin = s.errMin := rfl
@[simp] theorem openTransaction_errMax : (s.openTransaction).errMax = s.errMax := rfl
@[simp] theorem openTransaction_params : (s.openTransaction).params = s.params := rfl
@[simp] theorem openTransaction_queue : (s.openTransaction).queue = s.queue := rfl
@[simp] theorem openTransaction_answer : (s.openTransaction).answer = s.answer := rfl
@[simp] theorem openTransaction_resets : (s.openTransaction).resets = s.resets := rfl
@[simp] theorem openTransaction_readOfUnwritten : (s.openTransaction).readOfUnwritten = s.readOfUnwritten := rfl

/-! advance -/

@[simp] theorem advance_lower (n : Nat) : (s.advance n).lower = s.lower := rfl
@[simp] theorem advance_upper (n : Nat) : (s.advance n).upper = s.upper := rfl
@[simp] theorem advance_address (n : Nat) : (s.advance n).address = s.address := rfl
@[simp] theorem advance_port (n : Nat) : (s.advance n).port = s.port := rfl
@[simp] theorem advance_token (n : Nat) : (s.advance n).token = s.token := rfl
@[simp] theorem advance_flags (n : Nat) : (s.advance n).flags = s.flags := rfl
@[simp] theorem advance_cmdSize (n : Nat) : (s.advance n).cmdSize = s.cmdSize := rfl
@[simp] theorem advance_pktLen (n : Nat) : (s.advance n).pktLen = s.pktLen := rfl
@[simp] theorem advance_cbuf (n : Nat) : (s.advance n).cbuf = s.cbuf := rfl
@[simp] theorem advance_pbuf (n : Nat) : (s.advance n).pbuf = s.pbuf := rfl
@[simp] theorem advance_rbuf (n : Nat) : (s.advance n).rbuf = s.rbuf := rfl
@[simp] theorem advance_respLen (n : Nat) : (s.advance n).respLen = s.respLen := rfl
@[simp] theorem advance_argIndex (n : Nat) : (s.advance n).argIndex = BitVec.ofNat 16 (s.argIndex.toNat + n) := rfl
@[simp] theorem advance_dopen (n : Nat) : (s.advance n).dopen = s.dopen := rfl
@[simp] theorem advance_result (n : Nat) : (s.advance n).result = s.result := rfl
@[simp] theorem advance_strOff (n : Nat) : (s.advance n).strOff = s.strOff := rfl
@[simp] theorem advance_strLen (n : Nat) : (s.advance n).strLen = s.strLen := rfl
@[simp] theorem advance_fail (n : Nat) : (s.advance n).fail = s.fail := rfl
@[simp] theorem advance_eany (n : Nat) : (s.advance n).eany = s.eany := rfl
@[simp] theorem advance_errCode (n : Nat) : (s.advance n).errCode = s.errCode := rfl
@[simp] theorem advance_errField (n : Nat) : (s.advance n).errField = s.errField := rfl
@[simp] theorem advance_errValue (n : Nat) : (s.advance n).errValue = s.errValue := rfl
@[simp] theorem advance_errMin (n : Nat) : (s.advance n).errMin = s.errMin := rfl
@[simp] theorem advance_errMax (n : Nat) : (s.advance n).errMax = s.errMax := rfl
@[simp] theorem advance_params (n : Nat) : (s.advance n).params = s.params := rfl
@[simp] theorem advance_queue (n : Nat) : (s.advance n).queue = s.queue := rfl
@[simp] theorem advance_answer (n : Nat) : (s.advance n).answer = s.answer := rfl
@[simp] theorem advance_resets (n : Nat) : (s.advance n).resets = s.resets := rfl
@[simp] theorem advance_readOfUnwritten (n : Nat) : (s.advance n).readOfUnwritten = s.readOfUnwritten := rfl

/-! readInt -/

@[simp] theorem readInt_lower (g : Bool) (o : ByteOrder) (n : Nat) : (s.readInt g o n).lower = s.lower := rfl
@[simp] theorem readInt_upper (g : Bool) (o : ByteOrder) (n : Nat) : (s.readInt g o n).upper = s.upper := rfl
@[simp] theorem readInt_address (g : Bool) (o : ByteOrder) (n : Nat) : (s.readInt g o n).address = s.address := rfl
@[simp] theorem readInt_port (g : Bool) (o : ByteOrder) (n : Nat) : (s.readInt g o n).port = s.port := rfl
@[simp] theorem readInt_token (g : Bool) (o : ByteOrder) (n : Nat) : (s.readInt g o n).token = s.token := rfl
@[simp] theorem readInt_flags (g : Bool) (o : ByteOrder) (n : Nat) : (s.readInt g o n).flags = s.flags := rfl
@[simp] theorem readInt_cmdSize (g : Bool) (o : ByteOrder) (n : Nat) : (s.readInt g o n).cmdSize = s.cmdSize := rfl
@[simp] theorem readInt_pktLen (g : Bool) (o : ByteOrder) (n : Nat) : (s.readInt g o n).pktLen = s.pktLen := rfl
@[simp] theorem readInt_cbuf (g : Bool) (o : ByteOrder) (n : Nat) : (s.readInt g o n).cbuf = s.cbuf := rfl
@[simp] theorem readInt_pbuf (g : Bool) (o : ByteOrder) (n : Nat) : (s.readInt g o n).pbuf = s.pbuf := rfl
@[simp] theorem readInt_rbuf (g : Bool) (o : ByteOrder) (n : Nat) : (s.readInt g o n).rbuf = s.rbuf := rfl
@[simp] theorem readInt_respLen (g : Bool) (o : ByteOrder) (n : Nat) : (s.readInt g o n).respLen = s.respLen := rfl
@[simp] theorem readInt_argIndex (g : Bool) (o : ByteOrder) (n : Nat) : (s.readInt g o n).argIndex = BitVec.ofNat 16 (s.argIndex.toNat + n) := rfl
@[simp] theorem readInt_dopen (g : Bool) (o : ByteOrder) (n : Nat) : (s.readInt g o n).dopen = s.dopen := rfl
@[simp] theorem readInt_result (g : Bool) (o : ByteOrder) (n : Nat) : (s.readInt g o n).result = BitVec.ofNat 504 (resultImage s.params.intMaxBytes g (intOf o (s.memRead .rbuf s.argIndex.toNat n)) n) := rfl
@[simp] theorem readInt_strOff (g : Bool) (o : ByteOrder) (n : Nat) : (s.readInt g o n).strOff = s.strOff := rfl
@[simp] theorem readInt_strLen (g : Bool) (o : ByteOrder) (n : Nat) : (s.readInt g o n).strLen = s.strLen := rfl
@[simp] theorem readInt_fail (g : Bool) (o : ByteOrder) (n : Nat) : (s.readInt g o n).fail = s.fail := rfl
@[simp] theorem readInt_eany (g : Bool) (o : ByteOrder) (n : Nat) : (s.readInt g o n).eany = s.eany := rfl
@[simp] theorem readInt_errCode (g : Bool) (o : ByteOrder) (n : Nat) : (s.readInt g o n).errCode = s.errCode := rfl
@[simp] theorem readInt_errField (g : Bool) (o : ByteOrder) (n : Nat) : (s.readInt g o n).errField = s.errField := rfl
@[simp] theorem readInt_errValue (g : Bool) (o : ByteOrder) (n : Nat) : (s.readInt g o n).errValue = s.errValue := rfl
@[simp] theorem readInt_errMin (g : Bool) (o : ByteOrder) (n : Nat) : (s.readInt g o n).errMin = s.errMin := rfl
@[simp] theorem readInt_errMax (g : Bool) (o : ByteOrder) (n : Nat) : (s.readInt g o n).errMax = s.errMax := rfl
@[simp] theorem readInt_params (g : Bool) (o : ByteOrder) (n : Nat) : (s.readInt g o n).params = s.params := rfl
@[simp] theorem readInt_queue (g : Bool) (o : ByteOrder) (n : Nat) : (s.readInt g o n).queue = s.queue := rfl
@[simp] theorem readInt_answer (g : Bool) (o : ByteOrder) (n : Nat) : (s.readInt g o n).answer = s.answer := rfl
@[simp] theorem readInt_resets (g : Bool) (o : ByteOrder) (n : Nat) : (s.readInt g o n).resets = s.resets := rfl
@[simp] theorem readInt_readOfUnwritten (g : Bool) (o : ByteOrder) (n : Nat) : (s.readInt g o n).readOfUnwritten = s.readOfUnwritten := rfl

/-! prepend -/

@[simp] theorem prepend_lower (e : HostEvent) : (s.prepend e).lower = s.lower := rfl
@[simp] theorem prepend_upper (e : HostEvent) : (s.prepend e).upper = s.upper := rfl
@[simp] theorem prepend_address (e : HostEvent) : (s.prepend e).address = s.address := rfl
@[simp] theorem prepend_port (e : HostEvent) : (s.prepend e).port = s.port := rfl
@[simp] theorem prepend_token (e : HostEvent) : (s.prepend e).token = s.token := rfl
@[simp] theorem prepend_flags (e : HostEvent) : (s.prepend e).flags = s.flags := rfl
@[simp] theorem prepend_cmdSize (e : HostEvent) : (s.prepend e).cmdSize = s.cmdSize := rfl
@[simp] theorem prepend_pktLen (e : HostEvent) : (s.prepend e).pktLen = s.pktLen := rfl
@[simp] theorem prepend_cbuf (e : HostEvent) : (s.prepend e).cbuf = s.cbuf := rfl
@[simp] theorem prepend_pbuf (e : HostEvent) : (s.prepend e).pbuf = s.pbuf := rfl
@[simp] theorem prepend_rbuf (e : HostEvent) : (s.prepend e).rbuf = s.rbuf := rfl
@[simp] theorem prepend_respLen (e : HostEvent) : (s.prepend e).respLen = s.respLen := rfl
@[simp] theorem prepend_argIndex (e : HostEvent) : (s.prepend e).argIndex = s.argIndex := rfl
@[simp] theorem prepend_dopen (e : HostEvent) : (s.prepend e).dopen = s.dopen := rfl
@[simp] theorem prepend_result (e : HostEvent) : (s.prepend e).result = s.result := rfl
@[simp] theorem prepend_strOff (e : HostEvent) : (s.prepend e).strOff = s.strOff := rfl
@[simp] theorem prepend_strLen (e : HostEvent) : (s.prepend e).strLen = s.strLen := rfl
@[simp] theorem prepend_fail (e : HostEvent) : (s.prepend e).fail = s.fail := rfl
@[simp] theorem prepend_eany (e : HostEvent) : (s.prepend e).eany = s.eany := rfl
@[simp] theorem prepend_errCode (e : HostEvent) : (s.prepend e).errCode = s.errCode := rfl
@[simp] theorem prepend_errField (e : HostEvent) : (s.prepend e).errField = s.errField := rfl
@[simp] theorem prepend_errValue (e : HostEvent) : (s.prepend e).errValue = s.errValue := rfl
@[simp] theorem prepend_errMin (e : HostEvent) : (s.prepend e).errMin = s.errMin := rfl
@[simp] theorem prepend_errMax (e : HostEvent) : (s.prepend e).errMax = s.errMax := rfl
@[simp] theorem prepend_params (e : HostEvent) : (s.prepend e).params = s.params := rfl
@[simp] theorem prepend_queue (e : HostEvent) : (s.prepend e).queue = (e :: s.queue) := rfl
@[simp] theorem prepend_answer (e : HostEvent) : (s.prepend e).answer = s.answer := rfl
@[simp] theorem prepend_resets (e : HostEvent) : (s.prepend e).resets = s.resets := rfl
@[simp] theorem prepend_readOfUnwritten (e : HostEvent) : (s.prepend e).readOfUnwritten = s.readOfUnwritten := rfl

/-! hostReset -/

@[simp] theorem hostReset_lower : (s.hostReset).lower = State.reset.lower := rfl
@[simp] theorem hostReset_upper : (s.hostReset).upper = State.reset.upper := rfl
@[simp] theorem hostReset_address : (s.hostReset).address = State.reset.address := rfl
@[simp] theorem hostReset_port : (s.hostReset).port = State.reset.port := rfl
@[simp] theorem hostReset_token : (s.hostReset).token = State.reset.token := rfl
@[simp] theorem hostReset_flags : (s.hostReset).flags = State.reset.flags := rfl
@[simp] theorem hostReset_cmdSize : (s.hostReset).cmdSize = State.reset.cmdSize := rfl
@[simp] theorem hostReset_pktLen : (s.hostReset).pktLen = State.reset.pktLen := rfl
@[simp] theorem hostReset_cbuf : (s.hostReset).cbuf = State.reset.cbuf := rfl
@[simp] theorem hostReset_pbuf : (s.hostReset).pbuf = State.reset.pbuf := rfl
@[simp] theorem hostReset_rbuf : (s.hostReset).rbuf = State.reset.rbuf := rfl
@[simp] theorem hostReset_respLen : (s.hostReset).respLen = State.reset.respLen := rfl
@[simp] theorem hostReset_argIndex : (s.hostReset).argIndex = State.reset.argIndex := rfl
@[simp] theorem hostReset_dopen : (s.hostReset).dopen = State.reset.dopen := rfl
@[simp] theorem hostReset_result : (s.hostReset).result = State.reset.result := rfl
@[simp] theorem hostReset_strOff : (s.hostReset).strOff = State.reset.strOff := rfl
@[simp] theorem hostReset_strLen : (s.hostReset).strLen = State.reset.strLen := rfl
@[simp] theorem hostReset_fail : (s.hostReset).fail = State.reset.fail := rfl
@[simp] theorem hostReset_eany : (s.hostReset).eany = State.reset.eany := rfl
@[simp] theorem hostReset_errCode : (s.hostReset).errCode = State.reset.errCode := rfl
@[simp] theorem hostReset_errField : (s.hostReset).errField = State.reset.errField := rfl
@[simp] theorem hostReset_errValue : (s.hostReset).errValue = State.reset.errValue := rfl
@[simp] theorem hostReset_errMin : (s.hostReset).errMin = State.reset.errMin := rfl
@[simp] theorem hostReset_errMax : (s.hostReset).errMax = State.reset.errMax := rfl
@[simp] theorem hostReset_params : (s.hostReset).params = s.params := rfl
@[simp] theorem hostReset_queue : (s.hostReset).queue = s.queue := rfl
@[simp] theorem hostReset_answer : (s.hostReset).answer = State.reset.answer := rfl
@[simp] theorem hostReset_resets : (s.hostReset).resets = s.resets + 1 := rfl
@[simp] theorem hostReset_readOfUnwritten : (s.hostReset).readOfUnwritten = s.readOfUnwritten := rfl

/-! The operations that are a `raise` with fixed arguments. -/

@[simp] theorem raiseCommand_eq (k : Cause) (f : ErrField) (v lo hi : Nat) :
    s.raiseCommand k f v lo hi = s.raise true k f v lo hi := rfl
@[simp] theorem noTransaction_eq : s.noTransaction = s.raise true .noTransaction .dopen 0 1 1 := rfl
@[simp] theorem illegalCommand_eq (w : Word) : s.illegalCommand w = s.raise true .illegalCommand .opcode w.toNat 0 0 := rfl
@[simp] theorem badAccess_eq (space idx : Word) :
    s.badAccess space idx = s.raise false .badAccess .hostAccess (space.toNat * 65536 + idx.toNat) 0 0 := rfl

end Sys2Proof.Machine.State
end

