-- ==== Sys2Proof/Laws/Exec.lean ====
section
/-! SUPPORT. What each command can do, said once: the cases of its meaning, each with the state it ends in. -/

namespace Sys2Proof.Machine

theorem execSysClrErr_eq (s : State) : exec .sysClrErr s = .next s.clearRecord.complete := rfl

theorem execFlInit_eq (s : State) :
    exec .flInit s = .next { s with lower := 0, upper := 0, fail := false } := rfl

theorem execFlAbsorb_eq (b : Byte) (s : State) : exec (.flAbsorb b) s = .next (s.absorb b).complete := rfl

/-- ENC.RUN: one check of R106 fails and is recorded, or the operands are legal and the packet is built. -/
theorem execEncRun_cases (s : State) :
    (∃ f v lo hi, s.encFault = some (f, v, lo, hi) ∧
      exec .encRun s = .next (s.raise true .validationError f v lo hi)) ∨
    (legalOperands s.address.toNat s.port.toNat s.token.toNat s.respExp s.cmdSize.toNat = true ∧
      exec .encRun s = .next (s.encOutput.noteRead .cbuf 0 s.cmdSize.toNat).complete) := by
  rw [← encFault_eq_none_iff]
  simp only [exec, execEncRun]
  cases h : s.encFault with
  | none => exact .inr ⟨rfl, rfl⟩
  | some c => exact .inl ⟨c.1, c.2.1, c.2.2.1, c.2.2.2, rfl, rfl⟩

/-- DEC.BEGIN: RESP_LEN is beyond RESP_MAX, or the transaction opens (R136). -/
theorem execDecBegin_cases (s : State) :
    (s.params.respMax < s.respLen.toNat ∧
      exec .decBegin s = .next (s.raise true .badOperand .respLen s.respLen.toNat 0 s.params.respMax)) ∨
    (s.respLen.toNat ≤ s.params.respMax ∧ exec .decBegin s = .next s.openTransaction.complete) := by
  simp only [exec, execDecBegin]
  split
  · exact .inl ⟨‹_›, rfl⟩
  · exact .inr ⟨by omega, rfl⟩

/-- DEC.INT: one of its three faults, or the read (R137). -/
theorem execDecInt_cases (signed : Bool) (order : ByteOrder) (n : Nat) (s : State) :
    (s.params.intMaxBytes < n ∧ exec (.decInt signed order n) s =
      .next (s.raise true .badOperand .numBytes n 0 s.params.intMaxBytes)) ∨
    (n ≤ s.params.intMaxBytes ∧ s.dopen = false ∧ exec (.decInt signed order n) s =
      .next (s.raise true .noTransaction .dopen 0 1 1)) ∨
    (n ≤ s.params.intMaxBytes ∧ s.dopen = true ∧ s.remaining < n ∧ exec (.decInt signed order n) s =
      .next (s.raise true .insufficientData .numBytes n 0 s.remaining)) ∨
    (n ≤ s.params.intMaxBytes ∧ s.dopen = true ∧ n ≤ s.remaining ∧ exec (.decInt signed order n) s =
      .next ((s.readInt signed order n).noteRead .rbuf s.argIndex.toNat n).complete) := by
  simp only [exec, execDecInt]
  split
  · exact .inl ⟨‹_›, rfl⟩
  · split
    · exact .inr (.inl ⟨by omega, ‹_›, rfl⟩)
    · split
      · exact .inr (.inr (.inl ⟨by omega, by simpa using ‹¬s.dopen = false›, ‹_›, rfl⟩))
      · exact .inr (.inr (.inr ⟨by omega, by simpa using ‹¬s.dopen = false›, by omega, rfl⟩))

/-- DEC.ASCII: one of its four faults, the last with the cursor moved, or the string's place (R140). -/
theorem execDecAscii_cases (w : Nat) (s : State) :
    ((w ≠ 3 ∧ w ≠ 4) ∧ exec (.decAscii w) s = .next (s.raise true .badOperand .numArgBytes w 3 4)) ∨
    ((w = 3 ∨ w = 4) ∧ s.dopen = false ∧ exec (.decAscii w) s =
      .next (s.raise true .noTransaction .dopen 0 1 1)) ∨
    ((w = 3 ∨ w = 4) ∧ s.dopen = true ∧ s.remaining < w ∧ exec (.decAscii w) s =
      .next (s.raise true .insufficientData .numArgBytes w 0 s.remaining)) ∨
    ((w = 3 ∨ w = 4) ∧ s.dopen = true ∧ w ≤ s.remaining ∧ s.respLen.toNat < s.descOffset + s.descLength w ∧
      exec (.decAscii w) s = .next ((s.afterDescriptor w).raise true .outOfBounds .offsetPlusLength
        (s.descOffset + s.descLength w) 0 s.respLen.toNat)) ∨
    ((w = 3 ∨ w = 4) ∧ s.dopen = true ∧ w ≤ s.remaining ∧ s.descOffset + s.descLength w ≤ s.respLen.toNat ∧
      exec (.decAscii w) s = .next ({ s.afterDescriptor w with
        strOff := BitVec.ofNat 16 s.descOffset, strLen := BitVec.ofNat 16 (s.descLength w) } : State).complete) := by
  simp only [exec, execDecAscii]
  split
  · exact .inl ⟨‹_›, rfl⟩
  · have hw : w = 3 ∨ w = 4 := by omega
    split
    · exact .inr (.inl ⟨hw, ‹_›, rfl⟩)
    · have hd : s.dopen = true := by simpa using ‹¬s.dopen = false›
      split
      · exact .inr (.inr (.inl ⟨hw, hd, ‹_›, rfl⟩))
      · split
        · exact .inr (.inr (.inr (.inl ⟨hw, hd, by omega, ‹_›, rfl⟩)))
        · exact .inr (.inr (.inr (.inr ⟨hw, hd, by omega, by omega, rfl⟩)))

/-- The descriptor's two numbers fit their registers. -/
theorem descOffset_lt (s : State) : s.descOffset < 65536 := by
  have := be_lt (s.memRead .rbuf s.argIndex.toNat 2)
  rwa [memRead_length] at this

theorem descLength_lt (s : State) (w : Nat) (hw : w = 3 ∨ w = 4) : s.descLength w < 65536 := by
  have := be_lt (s.memRead .rbuf (s.argIndex.toNat + 2) (w - 2))
  rw [memRead_length] at this
  rcases hw with rfl | rfl
  · exact Nat.lt_trans this (by decide)
  · exact this

/-- Every command answers a next state. -/
theorem exec_answers_next (i : Instr) (s : State) : ∃ t, exec i s = .next t := by
  cases i with
  | sysClrErr => exact ⟨_, rfl⟩
  | flInit => exact ⟨_, rfl⟩
  | flAbsorb b => exact ⟨_, rfl⟩
  | encRun => rcases execEncRun_cases s with ⟨_, _, _, _, _, h⟩ | ⟨_, h⟩ <;> exact ⟨_, h⟩
  | decBegin => rcases execDecBegin_cases s with ⟨_, h⟩ | ⟨_, h⟩ <;> exact ⟨_, h⟩
  | decInt _ _ _ =>
    rcases execDecInt_cases _ _ _ s with ⟨_, h⟩ | ⟨_, _, h⟩ | ⟨_, _, _, h⟩ | ⟨_, _, _, h⟩ <;> exact ⟨_, h⟩
  | decAscii w =>
    rcases execDecAscii_cases w s with ⟨_, h⟩ | ⟨_, _, h⟩ | ⟨_, _, _, h⟩ | ⟨_, _, _, _, h⟩ | ⟨_, _, _, _, h⟩ <;>
      exact ⟨_, h⟩

/-- What any command can do: a fault of one of the four faulting commands with nothing but the record changed,
OutOfBounds with the cursor moved, or its effect. -/
inductive Ended (s : State) : Instr → State → Prop where
  /-- A fault that changes the record, FAIL and EANY only. -/
  | faulted {i : Instr} (k : Cause) (f : ErrField) (v lo hi : Nat) (hk : k ≠ .outOfBounds)
      (hc : i ≠ .sysClrErr ∧ i ≠ .flInit ∧ ∀ b, i ≠ .flAbsorb b) : Ended s i (s.raise true k f v lo hi)
  /-- SYS.CLRERR. -/
  | cleared : Ended s .sysClrErr s.clearRecord.complete
  /-- FL.INIT. -/
  | started : Ended s .flInit { s with lower := 0, upper := 0, fail := false }
  /-- FL.ABSORB. -/
  | absorbed (b : Byte) : Ended s (.flAbsorb b) (s.absorb b).complete
  /-- ENC.RUN on legal operands. -/
  | built (h : legalOperands s.address.toNat s.port.toNat s.token.toNat s.respExp s.cmdSize.toNat = true) :
      Ended s .encRun (s.encOutput.noteRead .cbuf 0 s.cmdSize.toNat).complete
  /-- DEC.BEGIN. -/
  | opened (h : s.respLen.toNat ≤ s.params.respMax) : Ended s .decBegin s.openTransaction.complete
  /-- DEC.INT. -/
  | readInteger (signed : Bool) (order : ByteOrder) (n : Nat) (hn : n ≤ s.params.intMaxBytes) (hd : s.dopen = true)
      (hr : n ≤ s.remaining) :
      Ended s (.decInt signed order n) ((s.readInt signed order n).noteRead .rbuf s.argIndex.toNat n).complete
  /-- DEC.ASCII, the string beyond the response. -/
  | outOfBounds (w : Nat) (hw : w = 3 ∨ w = 4) (hd : s.dopen = true) (hr : w ≤ s.remaining)
      (hb : s.respLen.toNat < s.descOffset + s.descLength w) :
      Ended s (.decAscii w) ((s.afterDescriptor w).raise true .outOfBounds .offsetPlusLength
        (s.descOffset + s.descLength w) 0 s.respLen.toNat)
  /-- DEC.ASCII, the string in the response. -/
  | readString (w : Nat) (hw : w = 3 ∨ w = 4) (hd : s.dopen = true) (hr : w ≤ s.remaining)
      (hb : s.descOffset + s.descLength w ≤ s.respLen.toNat) :
      Ended s (.decAscii w) ({ s.afterDescriptor w with
        strOff := BitVec.ofNat 16 s.descOffset, strLen := BitVec.ofNat 16 (s.descLength w) } : State).complete

/-- Every next state of a command is one of those. -/
theorem exec_ended {i : Instr} {s t : State} (h : exec i s = .next t) : Ended s i t := by
  cases i with
  | sysClrErr => cases h; exact .cleared
  | flInit => cases h; exact .started
  | flAbsorb b => cases h; exact .absorbed b
  | encRun =>
    rcases execEncRun_cases s with ⟨f, v, lo, hi, -, e⟩ | ⟨hl, e⟩ <;> rw [h] at e <;> cases e
    · refine .faulted _ f v lo hi ?_ ?_ <;> simp
    · exact .built hl
  | decBegin =>
    rcases execDecBegin_cases s with ⟨-, e⟩ | ⟨hl, e⟩ <;> rw [h] at e <;> cases e
    · refine .faulted _ _ _ _ _ ?_ ?_ <;> simp
    · exact .opened hl
  | decInt signed order n =>
    rcases execDecInt_cases signed order n s with ⟨-, e⟩ | ⟨-, -, e⟩ | ⟨-, -, -, e⟩ | ⟨hn, hd, hr, e⟩ <;>
      rw [h] at e <;> cases e
    · refine .faulted _ _ _ _ _ ?_ ?_ <;> simp
    · refine .faulted _ _ _ _ _ ?_ ?_ <;> simp
    · refine .faulted _ _ _ _ _ ?_ ?_ <;> simp
    · exact .readInteger signed order n hn hd hr
  | decAscii w =>
    rcases execDecAscii_cases w s with ⟨-, e⟩ | ⟨-, -, e⟩ | ⟨-, -, -, e⟩ | ⟨hw, hd, hr, hb, e⟩ | ⟨hw, hd, hr, hb, e⟩ <;>
      rw [h] at e <;> cases e
    · refine .faulted _ _ _ _ _ ?_ ?_ <;> simp
    · refine .faulted _ _ _ _ _ ?_ ?_ <;> simp
    · refine .faulted _ _ _ _ _ ?_ ?_ <;> simp
    · exact .outOfBounds w hw hd hr hb
    · exact .readString w hw hd hr hb

end Sys2Proof.Machine
end

