-- ==== Sys2Proof/Laws/PerInstr.lean ====
section
/-! SUPPORT. Statements about an instruction as syntax, one lemma per constructor. -/

namespace Sys2Proof.Laws

namespace TableRow

/-- The word of a well-formed instruction lies in the row of spec/opcode_table.json that carries its mnemonic, and in
no other. -/
def Statement (i : Instr) : Prop :=
  i.wf = true → ∀ r ∈ opcodeTable, r.matches (encode i) = true ↔ r.mnemonic = i.mnemonic

theorem sysClrErr : Statement .sysClrErr := fun _ => by decide

theorem flInit : Statement .flInit := fun _ => by decide

theorem flAbsorb (b : Byte) : Statement (.flAbsorb b) := fun _ => by
  revert b
  decide

theorem encRun : Statement .encRun := fun _ => by decide

theorem decBegin : Statement .decBegin := fun _ => by decide

theorem decInt (signed : Bool) (order : ByteOrder) (n : Nat) : Statement (.decInt signed order n) := fun h => by
  have key : ∀ k : Fin 64, ∀ r ∈ opcodeTable,
      r.matches (encode (.decInt signed order k)) = true ↔ r.mnemonic = "DEC.INT" := by
    cases signed <;> cases order <;> decide
  have hn : n ≤ 63 := by simpa [Instr.wf] using h
  exact key ⟨n, by omega⟩

theorem decAscii (w : Nat) : Statement (.decAscii w) := fun h => by
  have key : ∀ b : Byte, ∀ r ∈ opcodeTable,
      r.matches (encode (.decAscii b.toNat)) = true ↔ r.mnemonic = "DEC.ASCII" := by
    decide
  have hw : w ≤ 255 := by simpa [Instr.wf] using h
  have e : (BitVec.ofNat 8 w).toNat = w := by simp; omega
  exact e ▸ key (BitVec.ofNat 8 w)

end TableRow

end Sys2Proof.Laws
end

