-- ==== Sys2Proof/Laws/Step.lean ====
section
/-! SUPPORT. What a step can do, said once: serve nothing, a reset, a read, a command, an illegal word, or a write. -/

namespace Sys2Proof.Machine

/-- The registers and their numbers are one to one (R38). -/
theorem ofNumber_number (r : Reg) : Reg.ofNumber r.number = some r := by
  cases r <;> rfl

theorem number_of_ofNumber {n : Nat} {r : Reg} (h : Reg.ofNumber n = some r) : r.number = n := by
  have := List.find?_some h
  simpa using this

/-- A read: legal, with its value, or BadAccess and 0 (R51, R54). -/
theorem hostRead_cases (s : State) (sp idx : Word) :
    (∃ v, s.readElement sp.toNat idx.toNat = some v ∧
      s.hostRead sp idx = { s.noteElementRead sp.toNat idx.toNat with answer := some v }) ∨
    (s.readElement sp.toNat idx.toNat = none ∧ s.hostRead sp idx = { s.badAccess sp idx with answer := some 0 }) := by
  unfold State.hostRead
  cases h : s.readElement sp.toNat idx.toNat with
  | some v => exact .inl ⟨v, rfl, rfl⟩
  | none => exact .inr ⟨rfl, rfl⟩

/-- Reading a byte space changes the model's own record of U1 at most. -/
theorem noteElementRead_eq (s : State) (sp idx : Nat) :
    s.noteElementRead sp idx = { s with readOfUnwritten := (s.noteElementRead sp idx).readOfUnwritten } := by
  unfold State.noteElementRead
  split <;> rfl

/-- A write other than a command: what it writes, or BadAccess (R52, R54). -/
theorem hostWrite_cases (s : State) (sp idx : Word) (v : Nat) :
    (∃ r, sp.toNat = 0 ∧ Reg.ofNumber idx.toNat = some r ∧ r.access = .readWrite ∧ v < 2 ^ 16 ∧
      s.hostWrite sp idx v = { s.writeReg r (BitVec.ofNat 16 v) with answer := none }) ∨
    (sp.toNat = 1 ∧ idx.toNat < 2047 ∧ v < 2 ^ 8 ∧ s.hostWrite sp idx v =
      { s with cbuf := s.cbuf.write idx.toNat [BitVec.ofNat 8 v], answer := none }) ∨
    (sp.toNat = 3 ∧ idx.toNat < s.params.respMax ∧ v < 2 ^ 8 ∧ s.hostWrite sp idx v =
      { s with rbuf := s.rbuf.write idx.toNat [BitVec.ofNat 8 v], dopen := false, answer := none }) ∨
    s.hostWrite sp idx v = { s.badAccess sp idx with answer := none } := by
  unfold State.hostWrite State.writeElement
  generalize hsp : sp.toNat = n
  match n with
  | 0 =>
    simp only [State.writeRegSpace]
    cases hr : Reg.ofNumber idx.toNat with
    | none => exact .inr (.inr (.inr rfl))
    | some r =>
      by_cases h : r.access = .readWrite ∧ v < 2 ^ 16
      · exact .inl ⟨r, by simp, rfl, h.1, h.2, by simp only [if_pos h]⟩
      · exact .inr (.inr (.inr (by simp only [if_neg h])))
  | 1 =>
    by_cases h : idx.toNat < Config.cmdMax ∧ v < 2 ^ 8
    · exact .inr (.inl ⟨rfl, h.1, h.2, by simp only [if_pos h]⟩)
    · exact .inr (.inr (.inr (by simp only [if_neg h])))
  | 2 => exact .inr (.inr (.inr rfl))
  | 3 =>
    by_cases h : idx.toNat < s.params.respMax ∧ v < 2 ^ 8
    · exact .inr (.inr (.inl ⟨rfl, h.1, h.2, by simp only [if_pos h]; rfl⟩))
    · exact .inr (.inr (.inr (by simp only [if_neg h])))
  | _ + 4 => exact .inr (.inr (.inr rfl))

/-- The cases of a step that answers next (R6, R162, R182, R195). -/
theorem step_cases {s t : State} (h : step s = .next t) :
    (s.queue = [] ∧ t = s) ∨
    (∃ rest, s.queue = .reset :: rest ∧ t = ({ s with queue := rest } : State).hostReset) ∨
    (∃ sp idx rest, s.queue = .read sp idx :: rest ∧ t = ({ s with queue := rest } : State).hostRead sp idx) ∨
    (∃ (w : Word) (i : Instr) (rest : List HostEvent), s.queue = .write 0 0 w.toNat :: rest ∧ decode w = .ok i ∧
      exec i { s with queue := rest, answer := none } = .next t) ∨
    (∃ (w : Word) (e : DecodeError) (rest : List HostEvent), s.queue = .write 0 0 w.toNat :: rest ∧
      decode w = .error e ∧ t = { ({ s with queue := rest } : State).illegalCommand w with answer := none }) ∨
    (∃ sp idx v rest, s.queue = .write sp idx v :: rest ∧ t = ({ s with queue := rest } : State).hostWrite sp idx v) := by
  unfold step State.serve at h
  cases hq : s.queue with
  | nil => simp only [hq, Host.Outcome.next.injEq] at h; exact .inl ⟨rfl, h.symm⟩
  | cons e rest =>
    cases e with
    | reset =>
      simp only [hq, State.serveEvent, Host.Outcome.next.injEq] at h
      exact .inr (.inl ⟨rest, rfl, h.symm⟩)
    | read sp idx =>
      simp only [hq, State.serveEvent, Host.Outcome.next.injEq] at h
      exact .inr (.inr (.inl ⟨sp, idx, rest, rfl, h.symm⟩))
    | write sp idx v =>
      simp only [hq, State.serveEvent] at h
      split at h
      · rename_i i u hs
        split at hs
        · rename_i hc
          obtain ⟨h0, h1, hv⟩ := hc
          have hsp : sp = 0 := BitVec.eq_of_toNat_eq h0
          have hidx : idx = 0 := BitVec.eq_of_toNat_eq h1
          have hw : (BitVec.ofNat 16 v).toNat = v := by simp; omega
          unfold State.submit at hs
          split at hs
          · rename_i j hd
            simp only [Served.command.injEq] at hs
            obtain ⟨rfl, rfl⟩ := hs
            exact .inr (.inr (.inr (.inl ⟨BitVec.ofNat 16 v, j, rest, by rw [hw, hsp, hidx], hd, h⟩)))
          · cases hs
        · cases hs
      · rename_i u hs
        simp only [Host.Outcome.next.injEq] at h
        split at hs
        · rename_i hc
          obtain ⟨h0, h1, hv⟩ := hc
          have hsp : sp = 0 := BitVec.eq_of_toNat_eq h0
          have hidx : idx = 0 := BitVec.eq_of_toNat_eq h1
          have hw : (BitVec.ofNat 16 v).toNat = v := by simp; omega
          unfold State.submit at hs
          split at hs
          · cases hs
          · rename_i e hd
            simp only [Served.done.injEq] at hs
            exact .inr (.inr (.inr (.inr (.inl
              ⟨BitVec.ofNat 16 v, e, rest, by rw [hw, hsp, hidx], hd, by rw [← h, ← hs]⟩))))
        · simp only [Served.done.injEq] at hs
          exact .inr (.inr (.inr (.inr (.inr ⟨sp, idx, v, rest, rfl, by rw [← h, ← hs]⟩))))

/-! The step, event by event. -/

theorem step_read {s : State} {sp idx : Word} {rest : List HostEvent} (h : s.queue = .read sp idx :: rest) :
    step s = .next (({ s with queue := rest } : State).hostRead sp idx) := by
  simp [step, State.serve, h, State.serveEvent]

theorem step_reset {s : State} {rest : List HostEvent} (h : s.queue = .reset :: rest) :
    step s = .next ({ s with queue := rest } : State).hostReset := by
  simp [step, State.serve, h, State.serveEvent]

/-- A write that is no command. -/
theorem step_write {s : State} {sp idx : Word} {v : Nat} {rest : List HostEvent}
    (h : s.queue = .write sp idx v :: rest) (hc : ¬(sp.toNat = 0 ∧ idx.toNat = 0 ∧ v < 2 ^ 16)) :
    step s = .next (({ s with queue := rest } : State).hostWrite sp idx v) := by
  have hs : s.serve = .done (({ s with queue := rest } : State).hostWrite sp idx v) := by
    unfold State.serve
    rw [h]
    exact if_neg hc
  rw [step, hs]

/-- A write of a word to CMD. -/
theorem serve_submit {s : State} {w : Word} {rest : List HostEvent} (h : s.queue = .write 0 0 w.toNat :: rest) :
    s.serve = ({ s with queue := rest } : State).submit w := by
  simp [State.serve, h, State.serveEvent, Reg.number, w.isLt]

end Sys2Proof.Machine
end

