-- ==== Sys2Proof/Tests/Slice0.lean ====
section
/-! SUPPORT. Tests: well-formedness, decoding, single steps with results taken from spec/95_test_vectors.md, and for each
statement with hypotheses a state and operands that meet them. -/

namespace Sys2Proof.Machine.Tests

/-- What the step's next state must satisfy; false for a fault or a refusal. -/
def next? (o : Host.Outcome State Fault Refusal) (p : State → Bool) : Bool :=
  match o with
  | .next t => p t
  | .fault _ => false
  | .refused _ => false

/-- The state after reset, with one host event pending. -/
def pending (e : HostEvent) : State := { State.reset with queue := [e] }

/-- Bytes of a buffer from index 0. -/
def bytes (d : List Nat) : Memory := Memory.cells 0 (d.map (BitVec.ofNat 8))

/-- The first two rows of X4's packet: everything but the payload, ENC.RUN pending. -/
def ping : State :=
  { State.reset with
    address := 1, port := 32, token := 7, flags := 1, cmdSize := 4, cbuf := bytes [0x50, 0x49, 0x4E, 0x47]
    queue := [.write 0 0 0x2000] }

/-- A response with the transaction open and one command pending. -/
def opened (d : List Nat) (w : Nat) : State :=
  { State.reset with
    rbuf := bytes d, respLen := BitVec.ofNat 16 d.length, dopen := true, queue := [.write 0 0 w] }

/-- The five registers of the fault record. -/
def record (t : State) : List Nat :=
  [t.errCode.toNat, t.errField.toNat, t.errValue.toNat, t.errMin.toNat, t.errMax.toNat]

/-! Well-formedness: a number that no immediate can carry is refused (R73, R74). -/

theorem test_wf_refuses_int_64 : Instr.wf (.decInt true .little 64) = false := by decide
theorem test_wf_accepts_int_63 : Instr.wf (.decInt true .little 63) = true := by decide
theorem test_wf_refuses_ascii_256 : Instr.wf (.decAscii 256) = false := by decide
theorem test_wf_accepts_ascii_255 : Instr.wf (.decAscii 255) = true := by decide

/-! Decoding: words written out from R71 to R74, bits 15:8 the opcode, 7:0 the immediate. -/

theorem test_decode_sysClrErr : decode 0b00000001_00000000#16 = .ok .sysClrErr := by decide
theorem test_decode_flInit : decode 0b00010000_00000000#16 = .ok .flInit := by decide
theorem test_decode_flAbsorb : decode 0b00010001_01010000#16 = .ok (.flAbsorb 0x50) := by decide
theorem test_decode_encRun : decode 0b00100000_00000000#16 = .ok .encRun := by decide
theorem test_decode_decBegin : decode 0b00110000_00000000#16 = .ok .decBegin := by decide
/-- S = 1, E = 0, N = 000011 (V18's 0x3183). -/
theorem test_decode_decInt_big_signed : decode 0b00110001_1_0_000011#16 = .ok (.decInt true .big 3) := by decide
/-- S = 0, E = 1, N = 111111. -/
theorem test_decode_decInt_little : decode 0b00110001_0_1_111111#16 = .ok (.decInt false .little 63) := by decide
theorem test_decode_decAscii : decode 0b00110010_00000100#16 = .ok (.decAscii 4) := by decide
/-- S5, S6: words that no row of R71 has. -/
theorem test_decode_illegal :
    [0x0101#16, 0x2001#16, 0x3001#16, 0x0200#16, 0x1200#16, 0x2100#16, 0x3300#16, 0xFFFF#16].all
      (fun w => (decode w).toOption.isNone) = true := by decide
theorem test_decodeTableWord : decodeTableWord 16 0x31C2 = some (.decInt true .little 2) := by decide
theorem test_withFetchWord_runs_the_word :
    next? (step (State.reset.withFetchWord 16 0x11FE)) (fun t => t.lower == 0xFE && t.upper == 0xFE) = true := by decide

/-! One step each, against spec/95_test_vectors.md. -/

/-- S2. -/
theorem test_sysClrErr :
    next? (step { pending (.write 0 0 0x0100) with
      address := 32, errCode := 1, errField := 1, errValue := 32, errMax := 31, eany := true, fail := true })
      (fun t => record t == [0, 0, 0, 0, 0] && t.status == 0x0001 && t.address == 32) = true := by decide

/-- F27's end: FL.INIT from (3, 4). -/
theorem test_flInit :
    next? (step { pending (.write 0 0 0x1000) with lower := 3, upper := 4 })
      (fun t => t.lower == 0 && t.upper == 0 && t.z && t.flChk0 == 0xFF) = true := by decide

/-- R92's example: (166, 51) absorbs 07 and holds (173, 224); F22: the check bytes then read 71 E0. -/
theorem test_flAbsorb :
    next? (step { pending (.write 0 0 0x1107) with lower := 166, upper := 51 })
      (fun t => t.lower == 173 && t.upper == 224 && t.flChk0 == 0x71 && t.flChk1 == 0xE0) = true := by decide

/-- F28: 254 + 1 wraps to 0, not to 255, and `upper` takes the new `lower`. -/
theorem test_flAbsorb_wraps :
    next? (step { pending (.write 0 0 0x1101) with lower := 254, upper := 254 })
      (fun t => t.lower == 0 && t.upper == 254) = true := by decide

/-- E1, the packet of D0's end-to-end example; E20: the checksum registers stay. -/
theorem test_encRun :
    next? (step { ping with lower := 1, upper := 1 })
      (fun t => t.packetBytes? ==
        [0x01#8, 0x04#8, 0x81#8, 0x20#8, 0x07#8, 0x71#8, 0xE0#8, 0x50#8, 0x49#8, 0x4E#8, 0x47#8, 0xCF#8, 0x01#8].map some
        && t.lower == 1 && t.status == 0) = true := by decide

/-- E7: the reorder mode on, a last group of two bytes. -/
theorem test_encRun_reorder :
    next? (step { pending (.write 0 0 0x2000) with
      address := 5, port := 1, token := 2, flags := 2, cmdSize := 6
      cbuf := bytes [0x41, 0x42, 0x43, 0x44, 0x45, 0x46] })
      (fun t => t.packetBytes? ==
        [0x01#8, 0x06#8, 0x05#8, 0x01#8, 0x02#8, 0xC0#8, 0x30#8, 0x44#8, 0x43#8, 0x42#8, 0x41#8, 0x46#8, 0x45#8, 0xE0#8,
         0x88#8].map some) = true := by decide

/-- V30: RESP_LEN 65 is beyond RESP_MAX 64. -/
theorem test_decBegin_too_long :
    next? (step { pending (.write 0 0 0x3000) with respLen := 65 })
      (fun t => record t == [6, 9, 65, 0, 64] && t.status == 0x000D) = true := by decide

/-- P4, steps 15 and 16: DEC.BEGIN rewinds. -/
theorem test_decBegin_rewinds :
    next? (step { pending (.write 0 0 0x3000) with
      respLen := 22, dopen := true, argIndex := 17, strOff := 10, strLen := 5, eany := true, errCode := 2 })
      (fun t => t.argIndex == 0 && t.strLen == 0 && t.status == 0x000B && t.errCode == 2) = true := by decide

/-- V20: 7F FF little-endian signed is -129, in 64 bits. -/
theorem test_decInt_signed :
    next? (step (opened [0x7F, 0xFF] 0x31C2))
      (fun t => t.result.toNat == 0xFFFFFFFFFFFFFF7F && t.argIndex == 2 && !t.fail) = true := by decide +kernel

/-- V21: BadOperand comes before InsufficientData. -/
theorem test_decInt_fault_order :
    next? (step (opened [0x61] 0x313F)) (fun t => record t == [6, 6, 63, 0, 8] && t.argIndex == 0) = true := by decide

/-- V31: a four-byte descriptor. -/
theorem test_decAscii :
    next? (step (opened [0x00, 0x04, 0x00, 0x03, 0x41, 0x80, 0xFF] 0x3204))
      (fun t => t.strOff == 4 && t.strLen == 3 && t.argIndex == 4 && !t.fail) = true := by decide

/-- V28: out of bounds without wrap-around, the cursor moved. -/
theorem test_decAscii_out_of_bounds :
    next? (step (opened [0xFF, 0xFF, 0xFF, 0xFF] 0x3204))
      (fun t => record t == [3, 8, 131070, 0, 4] && t.argIndex == 4 && t.strLen == 0 && t.fail) = true := by decide

/-- S3: an illegal word changes nothing but the record. -/
theorem test_illegal_word :
    next? (step { pending (.write 0 0 0x1001) with lower := 1, upper := 1 })
      (fun t => record t == [5, 10, 0x1001, 0, 0] && t.lower == 1 && t.status == 0x000C) = true := by decide

/-- H2: a refused read returns 0 and leaves FAIL. -/
theorem test_refused_read :
    next? (step (pending (.read 2 0)))
      (fun t => record t == [8, 11, 0x20000, 0, 0] && t.answer == some 0 && t.status == 0x0009) = true := by decide

/-- H6: index 2047 of CBUF does not exist. -/
theorem test_refused_write :
    next? (step (pending (wrbCbuf 2047 0))) (fun t => record t == [8, 11, 0x107FF, 0, 0] && t.cbuf == []) = true := by
  decide

/-- H8: FLAGS takes its two low bits. -/
theorem test_write_flags :
    next? (step (pending (wr .flags 0xFFFF))) (fun t => t.flags == 3 && !t.eany) = true := by decide

/-- V35: writing the byte RBUF already holds closes the transaction. -/
theorem test_write_rbuf_closes :
    next? (step { opened [0xA9] 0 with queue := [wrbRbuf 0 0xA9] })
      (fun t => !t.dopen && t.rbuf == bytes [0xA9]) = true := by decide

/-- V31: SWIN reads a byte that is not ASCII as REPL_CHAR. -/
theorem test_swin :
    next? (step { opened [0x41, 0x80] 0 with strLen := 2, queue := [rdbSwin 1] }) (fun t => t.answer == some 0xFFFD) =
      true := by decide

/-- R84: `DEC.INT 2, little, signed` is 0x31C2. -/
theorem test_assembler : cmdLine (.decInt true .little 2) = .write 0 0 0x31C2 := by decide

/-! A state and operands for the hypotheses of each statement, by the statement's name. -/

theorem witness_EncodeFollowsAssemblerTable : (63 : Nat) ≤ 63 ∧ (255 : Nat) ≤ 255 := by decide

theorem witness_DecodeEncodeRoundTrip : Instr.wf (.decInt true .little 63) = true ∧ Instr.wf (.decAscii 255) = true := by
  decide

theorem witness_EncodeDecodeRoundTrip : decode 0x31FF#16 = .ok (.decInt true .little 63) := by decide

theorem witness_LegalWordsAreTableRows :
    decode 0x3200#16 = .ok (.decAscii 0) ∧ ⟨"DEC.ASCII", 0x3200#16, 0xFF00#16⟩ ∈ opcodeTable := by decide

theorem witness_StepRunsDecodedCommand : ping.queue = [.write 0 0 (0x2000#16).toNat] ∧ decode 0x2000#16 = .ok .encRun := by
  decide

theorem witness_IllegalWordFaults_opcode :
    (0x3300#16).toNat / 256 ∉ [0x01, 0x10, 0x11, 0x20, 0x30, 0x31, 0x32] ∧
      (pending (.write 0 0 0x3300)).queue = [.write 0 0 (0x3300#16).toNat] := by decide
theorem witness_IllegalWordFaults_immediate :
    (0x3001#16).toNat / 256 ∈ [0x01, 0x10, 0x20, 0x30] ∧ (0x3001#16).toNat % 256 ≠ 0 ∧
      (pending (.write 0 0 0x3001)).queue = [.write 0 0 (0x3001#16).toNat] := by decide

theorem witness_IdleKeepsState : State.reset.queue = [] := by decide

theorem witness_FlInitStartsChecksum : (0xFF#8 : Byte) ≠ 0 := by decide

theorem witness_FlAbsorbRollsSums :
    ({ State.reset with lower := 254 } : State).lower.toNat ≤ 254 ∧ ((0xFF#8 : Byte) = 0x00#8 ∨ (0xFF#8 : Byte) = 0xFF#8) := by
  decide

theorem witness_FletcherClosedForm : (List.replicate 128 (0xFF#8 : Byte)).length = 128 := List.length_replicate

/-- F20: c0 is 0xFF; F5: neither is. -/
theorem witness_ChecksumBlindToZeroAndFF_c0 : checkBytes [0x01#8, 0x7E#8] = [0xFF#8, 0x80#8] := by decide
theorem witness_ChecksumBlindToZeroAndFF_c1 : checkBytes [0x00#8] = [0xFF#8, 0xFF#8] := by decide

theorem witness_CheckByteViews :
    (pending (.read 0 4)).queue = [.read 0 0x0004#16] ∧ (pending (.read 0 5)).queue = [.read 0 0x0005#16] ∧
      State.reset.lower = 0 ∧ State.reset.upper = 0 := by decide

/-- F10. -/
theorem witness_VerifyReadsZ : checkBytes [0x50#8, 0x49#8, 0x4E#8, 0x47#8] = [0xCF#8, 0x01#8] := by decide

theorem witness_EncRunValidatesInOrder_address : 31 < ({ ping with address := 32 } : State).address.toNat := by decide
theorem witness_EncRunValidatesInOrder_port :
    ({ ping with address := 31, port := 256 } : State).address.toNat ≤ 31 ∧
      255 < ({ ping with address := 31, port := 256 } : State).port.toNat := by decide
theorem witness_EncRunValidatesInOrder_token :
    ({ ping with port := 255, token := 256 } : State).address.toNat ≤ 31 ∧
      ({ ping with port := 255, token := 256 } : State).port.toNat ≤ 255 ∧
      255 < ({ ping with port := 255, token := 256 } : State).token.toNat := by decide
theorem witness_EncRunValidatesInOrder_broadcast :
    ({ ping with address := 0 } : State).address.toNat = 0 ∧ ({ ping with address := 0 } : State).port.toNat ≤ 255 ∧
      ({ ping with address := 0 } : State).token.toNat ≤ 255 ∧ ({ ping with address := 0 } : State).respExp = true := by
  decide
theorem witness_EncRunValidatesInOrder_cmdSize :
    ({ ping with token := 255, cmdSize := 2048 } : State).address.toNat ≤ 31 ∧
      ({ ping with token := 255, cmdSize := 2048 } : State).port.toNat ≤ 255 ∧
      ({ ping with token := 255, cmdSize := 2048 } : State).token.toNat ≤ 255 ∧
      ¬(({ ping with token := 255, cmdSize := 2048 } : State).address.toNat = 0 ∧
        ({ ping with token := 255, cmdSize := 2048 } : State).respExp = true) ∧
      2047 < ({ ping with token := 255, cmdSize := 2048 } : State).cmdSize.toNat := by decide

/-- E17d's operands and E3's, for EncRunCompletes, EncRunBuildsWirePacket and PacketRoundTrip; the second state of
EncRunCompletes differs in the checksum registers. -/
def limits : State :=
  { State.reset with address := 31, port := 255, token := 255, flags := 3, cmdSize := 2047 }
theorem witness_EncRunCompletes :
    legalOperands limits.address.toNat limits.port.toNat limits.token.toNat limits.respExp limits.cmdSize.toNat = true ∧
      ({ limits with lower := 7 } : State).flags = limits.flags ∧
      ({ limits with lower := 7 } : State).memRead .cbuf 0 2047 = limits.memRead .cbuf 0 2047 := ⟨by decide, rfl, rfl⟩
theorem witness_EncRunBuildsWirePacket :
    legalOperands limits.address.toNat limits.port.toNat limits.token.toNat limits.respExp limits.cmdSize.toNat = true ∧
      packetLen limits.cmdSize.toNat ≤ 2086 := by decide
theorem witness_PacketRoundTrip :
    legalOperands State.reset.address.toNat State.reset.port.toNat State.reset.token.toNat State.reset.respExp
      State.reset.cmdSize.toNat = true := by decide

theorem witness_PacketLengths : (2047 : Nat) ≤ 2047 := by decide

theorem witness_HeaderBitLayout : legalOperands 31 255 255 true 2047 = true := by decide

/-- X6. -/
theorem witness_HeaderDecodeInverts :
    legalOperands 3 9 0x55 true 2047 = true ∧
      decodeHeader [0x39#8, 0xFF#8, 0x83#8, 0x09#8, 0x55#8, 0xD4#8, 0x10#8] =
        some { n := 2047, a := 3, r := true, p := 9, t := 0x55 } := by decide

theorem witness_ReorderIsMultiplexer : (4 : Nat) < [0x41#8, 0x42#8, 0x43#8, 0x44#8, 0x45#8].length ∧ 4 * (3 / 4) + 4 ≤ 4 := by
  decide

theorem witness_ReorderProperties : [0x41#8, 0x42#8, 0x43#8, 0x44#8].length % 4 = 0 := by decide

theorem witness_DecBeginOpensTransaction_too_long :
    ({ State.reset with respLen := 65 } : State).params.respMax < ({ State.reset with respLen := 65 } : State).respLen.toNat := by
  decide
theorem witness_DecBeginOpensTransaction_opens :
    ({ State.reset with respLen := 64 } : State).respLen.toNat ≤ ({ State.reset with respLen := 64 } : State).params.respMax := by
  decide
theorem witness_DecBeginOpensTransaction_empty :
    State.reset.respLen = 0 ∧ 0 < 8 ∧ 8 ≤ State.reset.params.intMaxBytes ∧ (0x01#8 : Byte) ≠ 0 := by decide

theorem witness_DecIntFaultsInOrder_operand : (opened [] 0).params.intMaxBytes < 9 := by decide
theorem witness_DecIntFaultsInOrder_transaction : 8 ≤ State.reset.params.intMaxBytes ∧ State.reset.dopen = false := by decide
theorem witness_DecIntFaultsInOrder_data :
    2 ≤ (opened [0x61] 0).params.intMaxBytes ∧ (opened [0x61] 0).dopen = true ∧
      (opened [0x61] 0).respLen.toNat - (opened [0x61] 0).argIndex.toNat < 2 := by decide
theorem witness_DecIntReadsInteger :
    (opened [0x7F, 0xFF] 0).params.wf ∧ 2 ≤ (opened [0x7F, 0xFF] 0).params.intMaxBytes ∧
      (opened [0x7F, 0xFF] 0).dopen = true ∧
      (opened [0x7F, 0xFF] 0).argIndex.toNat + 2 ≤ (opened [0x7F, 0xFF] 0).respLen.toNat := by decide

theorem witness_SignedImageSignExtends : (8 : Nat) ≤ 8 ∧ (0xFFFFFFFFFFFFFFFF : Nat) < 2 ^ (8 * 8) := by decide

theorem witness_DecAsciiFaultsInOrder_operand : (5 : Nat) ≠ 3 ∧ (5 : Nat) ≠ 4 := by decide
theorem witness_DecAsciiFaultsInOrder_transaction : ((3 : Nat) = 3 ∨ (3 : Nat) = 4) ∧ State.reset.dopen = false := by decide
theorem witness_DecAsciiFaultsInOrder_data :
    (opened [0, 3] 0).dopen = true ∧ (opened [0, 3] 0).respLen.toNat - (opened [0, 3] 0).argIndex.toNat < 3 := by decide
/-- V25. -/
theorem witness_DecAsciiFaultsInOrder_bounds :
    (opened [0, 6, 0, 0x41, 0x42] 0).dopen = true ∧
      (opened [0, 6, 0, 0x41, 0x42] 0).argIndex.toNat + 3 ≤ (opened [0, 6, 0, 0x41, 0x42] 0).respLen.toNat ∧
      (opened [0, 6, 0, 0x41, 0x42] 0).respLen.toNat <
        (opened [0, 6, 0, 0x41, 0x42] 0).descOffset + (opened [0, 6, 0, 0x41, 0x42] 0).descLength 3 := by decide
/-- V24 (W = 3) and V29 (W = 4), both at the limit off + len = RESP_LEN. -/
theorem witness_DecAsciiReadsDescriptor :
    (opened [0, 5, 0, 0x41, 0x42] 0).argIndex.toNat + 3 ≤ (opened [0, 5, 0, 0x41, 0x42] 0).respLen.toNat ∧
      ((opened [0, 5, 0, 0x41, 0x42] 0).byteAt .rbuf 0).toNat * 256 +
        ((opened [0, 5, 0, 0x41, 0x42] 0).byteAt .rbuf 1).toNat = 5 ∧
      ((opened [0, 5, 0, 0x41, 0x42] 0).byteAt .rbuf 2).toNat = 0 ∧ 5 + 0 ≤ (opened [0, 5, 0, 0x41, 0x42] 0).respLen.toNat := by
  decide
theorem witness_DecAsciiReadsDescriptor_wide :
    (opened [0, 0, 0, 4] 0).argIndex.toNat + 4 ≤ (opened [0, 0, 0, 4] 0).respLen.toNat ∧
      ((opened [0, 0, 0, 4] 0).byteAt .rbuf 2).toNat * 256 + ((opened [0, 0, 0, 4] 0).byteAt .rbuf 3).toNat = 4 ∧
      0 + 4 ≤ (opened [0, 0, 0, 4] 0).respLen.toNat := by decide

theorem witness_CursorCountsConsumedBytes :
    ∃ t₀, (opened [0x12, 0x34, 0, 0, 0] 0).respLen.toNat ≤ (opened [0x12, 0x34, 0, 0, 0] 0).params.respMax ∧
      (∀ i ∈ [Instr.decInt false .big 2, .flInit, .decAscii 3], i ≠ .decBegin) ∧
      exec .decBegin (opened [0x12, 0x34, 0, 0, 0] 0) = .next t₀ := ⟨_, by decide, by decide, rfl⟩

theorem witness_OpenResponseIsImmutable : ∃ t, step (opened [0x12, 0x34] 0x3102) = .next t ∧ t.dopen = true :=
  ⟨_, rfl, by decide⟩

/-- The state of RegisterReads's witness: the last register of R38. -/
def readMax : State := { pending (.read 0 0x1C) with errMax := 31 }
theorem witness_RegisterReads :
    (0x1C, 31) ∈
      [(0x01, readMax.z.toNat + 2 * readMax.dopen.toNat + 4 * readMax.fail.toNat + 8 * readMax.eany.toNat),
       (0x02, readMax.lower.toNat), (0x03, readMax.upper.toNat), (0x04, readMax.flChk0), (0x05, readMax.flChk1), (0x08, readMax.address.toNat), (0x09, readMax.port.toNat),
       (0x0A, readMax.token.toNat), (0x0B, readMax.flags.toNat), (0x0C, readMax.cmdSize.toNat),
       (0x0D, readMax.pktLen.toNat), (0x10, readMax.respLen.toNat), (0x11, readMax.argIndex.toNat),
       (0x12, readMax.result.toNat), (0x13, readMax.strOff.toNat), (0x14, readMax.strLen.toNat),
       (0x18, readMax.errCode.toNat), (0x19, readMax.errField.toNat), (0x1A, readMax.errValue.toNat),
       (0x1B, readMax.errMin.toNat), (0x1C, readMax.errMax.toNat)] ∧
      readMax.queue = [.read 0 (BitVec.ofNat 16 0x1C)] := by decide +kernel

theorem witness_LegalWrites_registers :
    [(pending (wr .address 0xFFFF)).queue, (pending (wr .port 0xFFFF)).queue, (pending (wr .token 0xFFFF)).queue,
      (pending (wr .flags 0xFFFF)).queue, (pending (wr .cmdSize 0xFFFF)).queue, (pending (wr .respLen 0xFFFF)).queue] =
      [[.write 0 0x08 (0xFFFF#16).toNat], [.write 0 0x09 (0xFFFF#16).toNat], [.write 0 0x0A (0xFFFF#16).toNat],
       [.write 0 0x0B (0xFFFF#16).toNat], [.write 0 0x0C (0xFFFF#16).toNat], [.write 0 0x10 (0xFFFF#16).toNat]] := by decide
theorem witness_LegalWrites_cbuf :
    2046 < 2047 ∧ (pending (wrbCbuf 2046 0xFF)).queue = [.write 1 (BitVec.ofNat 16 2046) (0xFF#8).toNat] := by decide
theorem witness_LegalWrites_rbuf :
    63 < State.reset.params.respMax ∧ (pending (wrbRbuf 63 0xFF)).queue = [.write 3 (BitVec.ofNat 16 63) (0xFF#8).toNat] := by
  decide
theorem witness_LegalWrites_cmd : decode 0x2000#16 = .ok .encRun ∧ ping.queue = [.write 0 0x00 (0x2000#16).toNat] := by decide

/-! IllegalAccessesFault, space by space: the clause's condition and the event, at the limit of the range. -/

theorem witness_IllegalAccessesFault_read_space :
    4 < (5#16).toNat ∧ (pending (.read 5 0)).queue = [.read 5#16 0] := by decide
theorem witness_IllegalAccessesFault_read_reg :
    (0x00#16).toNat ∉ [0x01, 0x02, 0x03, 0x04, 0x05, 0x08, 0x09, 0x0A, 0x0B, 0x0C, 0x0D, 0x10, 0x11, 0x12, 0x13, 0x14, 0x18,
      0x19, 0x1A, 0x1B, 0x1C] ∧ (pending (.read 0 0)).queue = [.read 0 0x00#16] := by decide
theorem witness_IllegalAccessesFault_read_cbuf : (1#16 : Word) = 1 ∧ (pending (.read 1 0)).queue = [.read 1#16 0] := by decide
theorem witness_IllegalAccessesFault_read_rbuf : (3#16 : Word) = 3 ∧ (pending (.read 3 0)).queue = [.read 3#16 0] := by decide
/-- P1, step 14: PBUF[13] of a packet of 13 bytes. -/
theorem witness_IllegalAccessesFault_read_pbuf :
    (2#16 : Word) = 2 ∧ ({ pending (.read 2 13) with pktLen := 13 } : State).pktLen.toNat ≤ (13#16).toNat ∧
      ({ pending (.read 2 13) with pktLen := 13 } : State).queue = [.read 2#16 13#16] := by decide
theorem witness_IllegalAccessesFault_read_swin_closed :
    (4#16 : Word) = 4 ∧ (pending (.read 4 0)).dopen = false ∧ (pending (.read 4 0)).queue = [.read 4#16 0] := by decide
theorem witness_IllegalAccessesFault_read_swin_beyond :
    (4#16 : Word) = 4 ∧ ({ opened [0x41] 0 with strLen := 1, queue := [.read 4 1] } : State).dopen = true ∧
      ({ opened [0x41] 0 with strLen := 1, queue := [.read 4 1] } : State).strLen.toNat ≤ (1#16).toNat ∧
      ({ opened [0x41] 0 with strLen := 1, queue := [.read 4 1] } : State).queue = [.read 4#16 1#16] := by decide
theorem witness_IllegalAccessesFault_write_space :
    4 < (5#16).toNat ∧ (pending (.write 5 0 0)).queue = [.write 5#16 0 0] := by decide
/-- H3. -/
theorem witness_IllegalAccessesFault_write_reg :
    (0x01#16).toNat ∉ [0x00, 0x08, 0x09, 0x0A, 0x0B, 0x0C, 0x10] ∧
      (pending (.write 0 1 0)).queue = [.write 0 0x01#16 0] := by decide
theorem witness_IllegalAccessesFault_write_pbuf : (2#16 : Word) = 2 ∧ (pending (.write 2 0 0)).queue = [.write 2#16 0 0] := by
  decide
theorem witness_IllegalAccessesFault_write_swin : (4#16 : Word) = 4 ∧ (pending (.write 4 0 0)).queue = [.write 4#16 0 0] := by
  decide
/-- H6. -/
theorem witness_IllegalAccessesFault_write_cbuf :
    (1#16 : Word) = 1 ∧ 2046 < (2047#16).toNat ∧ (pending (.write 1 2047 0)).queue = [.write 1#16 2047#16 0] := by decide
/-- V30. -/
theorem witness_IllegalAccessesFault_write_rbuf :
    (3#16 : Word) = 3 ∧ (pending (.write 3 64 0)).params.respMax ≤ (64#16).toNat ∧
      (pending (.write 3 64 0)).queue = [.write 3#16 64#16 0] := by decide

theorem witness_TooWideValuesFault :
    2 ^ 16 ≤ 65536 ∧ 2 ^ 8 ≤ 256 ∧ (pending (.write 0 0 65536)).queue = [.write 0 0 65536] ∧
      (pending (.write 1 0 256)).queue = [.write 1 0 256] := by decide

theorem witness_ByteSpaceReads_pbuf :
    (12#16).toNat < ({ pending (.read 2 12) with pktLen := 13 } : State).pktLen.toNat ∧
      ({ pending (.read 2 12) with pktLen := 13 } : State).queue = [.read 2 12] := by decide
theorem witness_ByteSpaceReads_swin :
    ({ opened [0x7F, 0x80] 0 with strLen := 2, queue := [.read 4 1] } : State).dopen = true ∧
      (1#16).toNat < ({ opened [0x7F, 0x80] 0 with strLen := 2, queue := [.read 4 1] } : State).strLen.toNat ∧
      0x80 ≤ ((opened [0x7F, 0x80] 0).byteAt .rbuf (0 + 1)).toNat ∧
      ((opened [0x7F, 0x80] 0).byteAt .rbuf (0 + 0)).toNat < 0x80 := by decide

theorem witness_HiddenPacketBytesUnobservable :
    ∃ t, SameButHidden ping { ping with pbuf := bytes [0xAA] } ∧ step ping = .next t :=
  ⟨_, ⟨rfl, fun i h => absurd h (Nat.not_lt_zero i)⟩, rfl⟩

theorem witness_CommandFaultsArePrecise : ∃ t, exec (.decAscii 5) (opened [255] 0) = .next t ∧ t.fail = true :=
  ⟨_, rfl, by decide⟩
theorem witness_CommandFaultsArePrecise_bounds :
    next? (exec (.decAscii 4) (opened [255, 255, 255, 255] 0)) (fun t => t.fail && t.errCode == 3 && t.argIndex == 4) =
      true := by decide

theorem witness_CompletedCommandsKeepRecord : ∃ t, exec .encRun ping = .next t ∧ t.fail = false ∧ Instr.encRun ≠ .sysClrErr :=
  ⟨_, rfl, by decide, by decide⟩

theorem witness_FaultFlagsChangeOnlySo :
    ∃ t, step { pending (.write 0 0 0x0100) with fail := true, eany := true } = .next t ∧ t.fail ≠ true ∧ t.eany = false :=
  ⟨_, rfl, by decide, by decide⟩

theorem witness_SumsWrittenOnlyByChecksumUnit : ∃ t, step (pending (.write 0 0 0x1101)) = .next t ∧ t.lower ≠ 0 :=
  ⟨_, rfl, by decide⟩

theorem witness_UnitsWriteOnlyTheirOwn : ∃ t, exec (.decInt true .big 2) (opened [0x7F, 0xFF] 0) = .next t := ⟨_, rfl⟩

theorem witness_CommandsKeepEveryOtherByte :
    ∃ t, exec .encRun ping = .next t ∧ packetLen ping.cmdSize.toNat ≤ 13 ∧
      (Instr.flInit ≠ .encRun ∨ BufferId.cbuf ≠ .pbuf) := ⟨_, rfl, by decide, by decide⟩

theorem witness_ResetRegisterValues :
    ((0x05#16).toNat, 0xFF) ∈ [(0x01, 0x0001), (0x02, 0), (0x03, 0), (0x04, 0xFF), (0x05, 0xFF), (0x08, 0), (0x09, 0),
      (0x0A, 0), (0x0B, 0), (0x0C, 0), (0x0D, 0), (0x10, 0), (0x11, 0), (0x12, 0), (0x13, 0), (0x14, 0), (0x18, 0),
      (0x19, 0), (0x1A, 0), (0x1B, 0), (0x1C, 0)] ∧ (0 : Word) = 0 := by decide

theorem witness_ResetEventClearsEngine : ({ ping with queue := [.reset] } : State).queue = [.reset] := by decide

/-- A state that meets R42 and is not the state after reset, and a step from it. -/
theorem witness_StepKeepsInvariants :
    Inv { opened [0x12, 0x34] 0x3102 with argIndex := 2, errCode := 8, eany := true } ∧
      ∃ t, step { opened [0x12, 0x34] 0x3102 with argIndex := 2, errCode := 8, eany := true } = .next t := by
  refine ⟨⟨by decide, by decide, .inl rfl, fun h => absurd h (by decide), fun _ => by decide, fun _ => by decide,
    fun _ => by decide, fun h => absurd h (by decide), by decide, by decide⟩, _, rfl⟩

/-- A state with bytes in all three buffers. -/
def filled : State := { ping with pbuf := bytes [0xAA], rbuf := bytes [0x12, 0x34] }
theorem filled_result_width : filled.result.toNat < 2 ^ (8 * filled.params.intMaxBytes) := by
  have h : filled.result.toNat = 0 := by decide +kernel
  rw [h]
  exact Nat.two_pow_pos _
/-- It meets the model's own invariant, and a step from it. -/
theorem witness_StepKeepsDataInvariant : DataInv filled ∧ ∃ t, step filled = .next t :=
  ⟨⟨by decide, by decide, by decide, by decide, by decide, by decide, by decide, filled_result_width, by decide, by decide⟩,
    _, rfl⟩

theorem witness_ParametersNeverChange : ∃ t, step ping = .next t := ⟨_, rfl⟩

end Sys2Proof.Machine.Tests
end

/-! PROOFS. O54, the invariants of 10_state.md R42: each operation of the engine keeps them, hence every command, every
host access and every step. In a proof `{ h with … }` the clauses of the invariant that are not named speak of
fields that are the same in both states. -/

namespace Sys2Proof.Machine

/-- A cause that is recorded is not 0 (R171). -/
theorem Cause.code_ne_zero (k : Cause) : k.code ≠ 0 := by
  cases k <;> decide

/-- FLAGS as written has its reserved bits 0 (R24). -/
theorem flagsWritten_lt (v : Word) : (flagsWritten v).toNat < 4 := by
  rw [flagsWritten, BitVec.toNat_and]
  exact Nat.lt_succ_of_le Nat.and_le_right

/-- What ENC.RUN leaves in PBUF[0..PKT_LEN) is the wire packet of its operands (R110, R77). -/
theorem encOutput_packetBytes? (s : State) (h : s.cmdSize.toNat ≤ 2047) :
    s.encOutput.packetBytes? = (packet s.address.toNat s.port.toNat s.token.toNat s.respExp s.propcr
      (s.memRead .cbuf 0 s.cmdSize.toNat)).map some := by
  rw [State.packetBytes?, encOutput_pktLen_toNat s h]
  refine List.ext_getElem (by simp [packet_length]) fun j hj _ => ?_
  have hj : j < packetLen s.cmdSize.toNat := by simpa using hj
  simp [read?_encOutput s h, hj, packet_length]

/-- R42 holds after reset: everything is 0 and nothing is open. -/
theorem inv_reset : Inv State.reset where
  lower_le := by decide
  upper_le := by decide
  pktLen_legal := .inl rfl
  packet_wellFormed := fun h => absurd h (by decide)
  open_respLen := nofun
  open_argIndex := nofun
  open_string := nofun
  fail_eany := nofun
  eany_iff := by decide
  flags_reserved := by decide

/-- A reset event keeps the parameters; no transaction is open then, so no clause compares RESP_LEN with them. -/
theorem inv_hostReset (s : State) : Inv s.hostReset := { inv_reset with open_respLen := nofun }

section Operations

variable {s : State} (h : Inv s)

include h

/-! The operations of the commands and the host port, one rule each. -/

/-- The pending events and the answer are in no clause. -/
theorem Inv.setPort (rest : List HostEvent) (a : Option Nat) : Inv { s with queue := rest, answer := a } := { h with }

/-- U1's record is in no clause. -/
theorem Inv.noteRead (b : BufferId) (i n : Nat) : Inv (s.noteRead b i n) := { h with }

/-- Raising a fault sets EANY together with a code that is not 0 (R173). -/
theorem Inv.raise (c : Bool) (k : Cause) (f : ErrField) (v lo hi : Nat) : Inv (s.raise c k f v lo hi) :=
  { h with
    fail_eany := fun _ => rfl
    eany_iff := iff_of_true rfl k.code_ne_zero }

theorem Inv.complete : Inv s.complete := { h with fail_eany := nofun }

/-- EANY and ERR_CODE are cleared together; FAIL is cleared by the completion (R160). -/
theorem Inv.clearRecord_complete : Inv s.clearRecord.complete :=
  { h with
    fail_eany := nofun
    eany_iff := iff_of_false nofun fun hc => hc rfl }

theorem Inv.initSums : Inv { s with lower := 0, upper := 0 } :=
  { h with
    lower_le := Nat.zero_le _
    upper_le := Nat.zero_le _ }

theorem Inv.absorb (b : Byte) : Inv (s.absorb b) :=
  { h with
    lower_le := (Nat.mod_le _ _).trans (absorbLower_le s.lower b)
    upper_le := (Nat.mod_le _ _).trans (absorbUpper_le s.lower s.upper b) }

/-- On legal operands ENC.RUN leaves a packet and its length (R110). -/
theorem Inv.encOutput
    (hl : legalOperands s.address.toNat s.port.toNat s.token.toNat s.respExp s.cmdSize.toNat = true) :
    Inv s.encOutput := by
  obtain ⟨-, -, -, -, hn⟩ := (legalOperands_iff _ _ _ _ _).1 hl
  exact { h with
    pktLen_legal := .inr ⟨s.cmdSize.toNat, hn, encOutput_pktLen_toNat s hn⟩
    packet_wellFormed := fun _ =>
      ⟨_, ⟨_, _, _, _, _, _, by rwa [memRead_length], rfl⟩, encOutput_packetBytes? s hn⟩ }

theorem Inv.openTransaction (hr : s.respLen.toNat ≤ s.params.respMax) : Inv s.openTransaction :=
  { h with
    open_respLen := fun _ => hr
    open_argIndex := fun _ => Nat.zero_le _
    open_string := fun _ => Nat.zero_le _ }

/-- The cursor moved over bytes that remain stays within the response (R40, R141). -/
theorem Inv.advance {n : Nat} (hd : s.dopen = true) (hn : n ≤ s.remaining) : Inv (s.advance n) := by
  have hle := h.open_argIndex hd
  exact { h with
    open_argIndex := fun _ => by
      simp only [State.advance, State.remaining, BitVec.toNat_ofNat] at hn ⊢
      omega }

/-- A string within the response; cutting its two numbers to their registers makes neither larger. -/
theorem Inv.setString {off len : Nat} (hb : off + len ≤ s.respLen.toNat) :
    Inv { s with strOff := BitVec.ofNat 16 off, strLen := BitVec.ofNat 16 len } :=
  { h with
    open_string := fun _ => (Nat.add_le_add (Nat.mod_le _ _) (Nat.mod_le _ _)).trans hb }

/-- A host write to RBUF or RESP_LEN closes the transaction, which is all that (d) speaks of (R31). -/
theorem Inv.setResponse (m : Memory) (len : Word) : Inv { s with rbuf := m, respLen := len, dopen := false } :=
  { h with
    open_respLen := nofun
    open_argIndex := nofun
    open_string := nofun }

/-- Register writes: FLAGS takes two bits, RESP_LEN closes the transaction, no other writable register is in a clause
(R52). -/
theorem Inv.writeReg (r : Reg) (v : Word) : Inv (s.writeReg r v) := by
  cases r with
  | flags => exact { h with flags_reserved := flagsWritten_lt v }
  | respLen => exact h.setResponse s.rbuf v
  | _ => exact { h with }

/-! Commands, host accesses and steps. -/

/-- Every command keeps R42, whether it completes or faults. -/
theorem Inv.ended {i : Instr} {t : State} (e : Ended s i t) : Inv t := by
  cases e with
  | faulted k f v lo hi => exact h.raise _ _ _ _ _ _
  | cleared => exact h.clearRecord_complete
  | started => exact h.initSums.complete
  | absorbed b => exact (h.absorb b).complete
  | built hl => exact ((h.encOutput hl).noteRead _ _ _).complete
  | opened hr => exact (h.openTransaction hr).complete
  | readInteger signed order n hn hd hr => exact { (h.advance hd hr).complete with }
  | outOfBounds w hw hd hr hb => exact ((h.noteRead _ _ _).advance hd hr).raise _ _ _ _ _ _
  | readString w hw hd hr hb => exact (((h.noteRead _ _ _).advance hd hr).setString hb).complete

theorem Inv.hostRead (sp idx : Word) : Inv (s.hostRead sp idx) := by
  rcases hostRead_cases s sp idx with ⟨v, -, e⟩ | ⟨-, e⟩ <;> rw [e]
  · rw [noteElementRead_eq]
    exact { h with }
  · exact { h.raise false .badAccess .hostAccess (sp.toNat * 65536 + idx.toNat) 0 0 with }

theorem Inv.hostWrite (sp idx : Word) (v : Nat) : Inv (s.hostWrite sp idx v) := by
  rcases hostWrite_cases s sp idx v with ⟨r, -, -, -, -, e⟩ | ⟨-, -, -, e⟩ | ⟨-, -, -, e⟩ | e <;> rw [e]
  · exact { h.writeReg r (BitVec.ofNat 16 v) with }
  · exact { h with }
  · exact { h.setResponse s.rbuf s.respLen with }
  · exact { h.raise false .badAccess .hostAccess (sp.toNat * 65536 + idx.toNat) 0 0 with }

/-- Each of the six kinds of step keeps R42. -/
theorem Inv.step {t : State} (e : step s = .next t) : Inv t := by
  rcases step_cases e with ⟨-, rfl⟩ | ⟨rest, -, rfl⟩ | ⟨sp, idx, rest, -, rfl⟩ | ⟨w, i, rest, -, -, hx⟩ |
    ⟨w, d, rest, -, -, rfl⟩ | ⟨sp, idx, v, rest, -, rfl⟩
  · exact h
  · exact inv_hostReset _
  · exact (h.setPort rest s.answer).hostRead sp idx
  · exact (h.setPort rest none).ended (exec_ended hx)
  · exact { h.raise true .illegalCommand .opcode w.toNat 0 0 with }
  · exact (h.setPort rest s.answer).hostWrite sp idx v

end Operations

/-- Settles O54: the state after reset meets R42, and each of the six kinds of step keeps it. -/
theorem stepKeepsInvariants : Obligations.StepKeepsInvariants :=
  ⟨inv_reset, fun _ _ h => h.step⟩

end Sys2Proof.Machine

/-! PROOFS. O38 and O41, the legal accesses of the host port (20_memory.md R51, R52): each kind of access is one lemma
about the step that serves it. -/

namespace Sys2Proof.Machine

section Accesses

variable {s : State} {rest : List HostEvent}

/-! Writes (R52). -/

/-- CMD is the only register with number 0, and it is write-only (R38). -/
theorem Reg.number_ne_zero {r : Reg} (hr : r.access = .readWrite) : r.number ≠ 0 := by
  cases r <;> simp [Reg.access, Reg.number] at hr ⊢

/-- A write of a read-write register of R38. -/
theorem step_write_reg {r : Reg} {v : Word} (hr : r.access = .readWrite)
    (hq : s.queue = .write 0 (BitVec.ofNat 16 r.number) v.toNat :: rest) :
    step s = .next { ({ s with queue := rest } : State).writeReg r v with answer := none } := by
  have hnum : (BitVec.ofNat 16 r.number).toNat = r.number := by cases r <;> rfl
  rw [step_write hq (by simp [hnum, Reg.number_ne_zero hr])]
  simp [State.hostWrite, State.writeElement, State.writeRegSpace, hnum, ofNumber_number, hr, v.isLt]

/-- A write of a byte of CBUF (R26). -/
theorem step_write_cbuf {i : Nat} {b : Byte} (hi : i < 2047)
    (hq : s.queue = .write 1 (BitVec.ofNat 16 i) b.toNat :: rest) :
    step s = .next { s with queue := rest, answer := none, cbuf := s.cbuf.write i [b] } := by
  have hidx : i % 65536 = i := by omega
  rw [step_write hq (by simp)]
  simp [State.hostWrite, State.writeElement, hidx, hi, b.isLt]

/-- A write of a byte of RBUF, which closes the transaction (R28, R31). -/
theorem step_write_rbuf {i : Nat} {b : Byte} (hi : i < s.params.respMax) (hw : i < 65536)
    (hq : s.queue = .write 3 (BitVec.ofNat 16 i) b.toNat :: rest) :
    step s = .next { s with queue := rest, answer := none, rbuf := s.rbuf.write i [b], dopen := false } := by
  rw [step_write hq (by simp)]
  simp [State.hostWrite, State.writeElement, State.closeTransaction, Nat.mod_eq_of_lt hw, hi, b.isLt]

/-- A write of a legal word to CMD (R162). -/
theorem step_write_cmd {w : Word} {c : Instr} (hd : decode w = .ok c) (hq : s.queue = .write 0 0 w.toNat :: rest) :
    step s = exec c { s with queue := rest, answer := none } := by
  simp [step, serve_submit hq, State.submit, hd]

/-- FLAGS takes the value's two low bits (R24). -/
theorem flagsWritten_eq_mod (v : Word) : flagsWritten v = BitVec.ofNat 16 (v.toNat % 4) := by
  apply BitVec.eq_of_toNat_eq
  rw [flagsWritten, BitVec.toNat_and, BitVec.toNat_ofNat]
  exact (Nat.and_two_pow_sub_one_eq_mod v.toNat 2).trans (Nat.mod_eq_of_lt (by omega)).symm

/-- A byte written alone is read back, and every other byte of the buffer stays. -/
theorem Memory.read?_write_byte (m : Memory) (i : Nat) (b : Byte) :
    read? (m.write i [b]) i = some b ∧ ∀ j, j ≠ i → read? (m.write i [b]) j = read? m j :=
  ⟨read?_write_self m i b, fun j h => read?_write_outside m i j [b] (by simp; omega)⟩

/-! Reads (R51). -/

/-- A legal read answers the element and records the read (log 4). -/
theorem step_read_legal {sp idx : Word} {v : Nat} (hq : s.queue = .read sp idx :: rest)
    (hv : ({ s with queue := rest } : State).readElement sp.toNat idx.toNat = some v) :
    step s = .next
      { ({ s with queue := rest } : State).noteElementRead sp.toNat idx.toNat with answer := some v } := by
  rw [step_read hq, State.hostRead, hv]

/-- A byte below 0x80 is its own character (R56). -/
theorem swinChar_ascii {i : Nat} (h : (s.byteAt .rbuf (s.strOff.toNat + i)).toNat < 0x80) :
    (s.swinChar i).toNat = (s.byteAt .rbuf (s.strOff.toNat + i)).toNat := by
  rw [State.swinChar, if_pos h, BitVec.toNat_ofNat]
  omega

/-- A byte from 0x80 on is replaced (R56). -/
theorem swinChar_replaced {i : Nat} (h : 0x80 ≤ (s.byteAt .rbuf (s.strOff.toNat + i)).toNat) :
    s.swinChar i = s.params.replChar :=
  if_neg (Nat.not_lt.2 h)

/-- The bytes SWIN shows lie in the response, and the response in RBUF (R42 (d)). -/
theorem Inv.swin_in_response (h : Inv s) (hd : s.dopen = true) {i : Nat} (hi : i < s.strLen.toNat) :
    s.strOff.toNat + i < s.respLen.toNat ∧ s.respLen.toNat ≤ s.params.respMax :=
  ⟨(Nat.add_lt_add_left hi _).trans_le (h.open_string hd), h.open_respLen hd⟩

end Accesses

/-- Settles O38: register by register, byte by byte, and the command. -/
theorem legalWrites : Obligations.LegalWrites := by
  intro s rest v b i
  refine ⟨step_write_reg (r := .address) rfl, step_write_reg (r := .port) rfl, step_write_reg (r := .token) rfl,
    fun hq => ?flags, step_write_reg (r := .cmdSize) rfl, step_write_reg (r := .respLen) rfl,
    fun hi hq => ?cbuf, fun hi hw hq => ?rbuf, fun _ => step_write_cmd⟩
  case flags =>
    rw [← flagsWritten_eq_mod]
    exact step_write_reg (r := .flags) rfl hq
  case cbuf => exact ⟨_, step_write_cbuf hi hq, rfl, Memory.read?_write_byte s.cbuf i b⟩
  case rbuf => exact ⟨_, step_write_rbuf hi hw hq, rfl, Memory.read?_write_byte s.rbuf i b⟩

/-- Settles O41: a read of PBUF, and one of SWIN, whose character is the byte or REPL_CHAR. -/
theorem byteSpaceReads : Obligations.ByteSpaceReads := by
  intro s rest idx
  refine ⟨fun hi hq => ?pbuf, fun hd hi hq => ?swin⟩
  case pbuf => exact step_read_legal hq (if_pos hi)
  case swin =>
    exact ⟨_, step_read_legal hq (if_pos ⟨hd, hi⟩), swinChar_ascii,
      fun h => congrArg BitVec.toNat (swinChar_replaced h), fun h => h.swin_in_response hd hi⟩

end Sys2Proof.Machine

/-! PROOFS. O22 and O23, the header (30_encoding.md R78, R81): its bytes as numbers, as bit fields, and what the decode
reads back from each. -/

namespace Sys2Proof.Machine

/-- The two check bytes make both sums cancel (R97). -/
theorem f16_append_checkBytes (d : List Byte) : f16 (d ++ checkBytes d) = (0, 0) := by
  have h0 : chk0 (f16 d).1 (f16 d).2 < 2 ^ 8 := Nat.lt_succ_of_le (chk0_range _ _).2
  have h1 : chk1 (f16 d).1 (f16 d).2 < 2 ^ 8 := Nat.lt_succ_of_le (chk1_range _ _).2
  rw [checkBytes, f16_append_pair, BitVec.toNat_ofNat, BitVec.toNat_ofNat, Nat.mod_eq_of_lt h0, Nat.mod_eq_of_lt h1]
  simp only [chk1, chk0, Config.flMod, Prod.mk.injEq]
  constructor <;> omega

/-! The bit operations of the header bytes as arithmetic. -/

theorem shiftLeft_three_or_one (q : Nat) : q <<< 3 ||| 0b001 = q * 8 + 1 := by
  rw [← Nat.shiftLeft_add_eq_or_of_lt (by decide), Nat.shiftLeft_eq]

theorem address_or_response {a : Nat} (ha : a ≤ 31) (r : Bool) :
    (a ||| if r then 0x80 else 0x00) = r.toNat * 128 + a := by
  cases r with
  | false => simp
  | true => exact (Nat.or_comm _ _).trans (Nat.two_pow_add_eq_or_of_lt (i := 7) (by omega) 1).symm

/-- A statement about every byte, by its two hexadecimal digits: small enough for `decide`. -/
theorem forall_byte_of_digits {P : Nat → Prop} (h : ∀ hi < 16, ∀ lo < 16, P (hi * 16 + lo)) (b : Byte) :
    P b.toNat := by
  have := h (b.toNat / 16) (by omega) (b.toNat % 16) (by omega)
  rwa [Nat.div_add_mod'] at this

/-- CH0's mask test leaves bits 5:3 free. -/
theorem ch0_mask_iff (b : Byte) :
    b.toNat &&& 0xC7 = 0x01 ↔ b.toNat = (b.toNat >>> 3 &&& 7) * 8 + 1 :=
  forall_byte_of_digits (P := fun k => k &&& 0xC7 = 0x01 ↔ k = (k >>> 3 &&& 7) * 8 + 1) (by decide) b

/-- CH2's mask test leaves bit 7 and bits 4:0 free. -/
theorem ch2_mask_iff (b : Byte) :
    b.toNat &&& 0x60 = 0 ↔ b.toNat = (b.toNat >>> 7 == 1).toNat * 128 + (b.toNat &&& 0x1F) :=
  forall_byte_of_digits (P := fun k => k &&& 0x60 = 0 ↔ k = (k >>> 7 == 1).toNat * 128 + (k &&& 0x1F)) (by decide) b

/-! The header bytes as bit fields (R78). -/

theorem ch0_bits {n : Nat} (hn : n ≤ 2047) :
    BitVec.ofNat 8 ((n / 256) <<< 3 ||| 0b001) = 0#2 ++ (BitVec.ofNat 11 n).extractLsb' 8 3 ++ 0b001#3 := by
  apply BitVec.eq_of_toNat_eq
  have hhi : (0#2 ++ (BitVec.ofNat 11 n).extractLsb' 8 3 : BitVec 5).toNat = n / 256 := by
    refine (BitVec.toNat_append _ _).trans ?_
    simp [Nat.shiftRight_eq_div_pow]
    omega
  rw [shiftLeft_three_or_one, BitVec.toNat_append, hhi, ← Nat.shiftLeft_add_eq_or_of_lt (by decide),
    Nat.shiftLeft_eq, BitVec.toNat_ofNat]
  exact Nat.mod_eq_of_lt (by omega)

theorem ch1_bits (n : Nat) : BitVec.ofNat 8 (n % 256) = (BitVec.ofNat 11 n).extractLsb' 0 8 := by
  apply BitVec.eq_of_toNat_eq
  simp

theorem ch2_bits {a : Nat} (ha : a ≤ 31) (r : Bool) :
    BitVec.ofNat 8 (a ||| if r then 0x80 else 0x00) = BitVec.ofBool r ++ 0#2 ++ BitVec.ofNat 5 a := by
  apply BitVec.eq_of_toNat_eq
  rw [address_or_response ha, BitVec.toNat_append, ← Nat.shiftLeft_add_eq_or_of_lt (BitVec.isLt _)]
  have h5 : a % 32 = a := Nat.mod_eq_of_lt (Nat.lt_succ_of_le ha)
  cases r <;> simp [h5] <;> omega

theorem headerFields_bits {a p t : Nat} {r : Bool} {n : Nat} (h : legalOperands a p t r n = true) :
    headerFields n a p t r =
      [0#2 ++ (BitVec.ofNat 11 n).extractLsb' 8 3 ++ 0b001#3, (BitVec.ofNat 11 n).extractLsb' 0 8,
       BitVec.ofBool r ++ 0#2 ++ BitVec.ofNat 5 a, BitVec.ofNat 8 p, BitVec.ofNat 8 t] := by
  obtain ⟨ha, -, -, -, hn⟩ := (legalOperands_iff _ _ _ _ _).1 h
  rw [headerFields, ch0_bits hn, ch1_bits, ch2_bits ha]

/-! What the decode reads back (R81). -/

theorem decode_payload_length_iff {c0 c1 : Byte} {n : Nat} :
    (c0.toNat &&& 0xC7 = 0x01 ∧ (c0.toNat >>> 3 &&& 7) * 256 + c1.toNat = n) ↔
      n ≤ 2047 ∧ c0 = BitVec.ofNat 8 ((n / 256) <<< 3 ||| 0b001) ∧ c1 = BitVec.ofNat 8 (n % 256) := by
  have hq : c0.toNat >>> 3 &&& 7 = c0.toNat / 8 % 8 := by
    rw [Nat.shiftRight_eq_div_pow]
    exact Nat.and_two_pow_sub_one_eq_mod _ 3
  rw [ch0_mask_iff, hq, shiftLeft_three_or_one, ← BitVec.toNat_inj, ← BitVec.toNat_inj, BitVec.toNat_ofNat,
    BitVec.toNat_ofNat]
  omega

theorem decode_address_iff {c2 : Byte} {a : Nat} {r : Bool} :
    (c2.toNat &&& 0x60 = 0 ∧ c2.toNat &&& 0x1F = a ∧ (c2.toNat >>> 7 == 1) = r) ↔
      a ≤ 31 ∧ c2 = BitVec.ofNat 8 (a ||| if r then 0x80 else 0x00) := by
  have ha : c2.toNat &&& 0x1F = c2.toNat % 32 := Nat.and_two_pow_sub_one_eq_mod _ 5
  have hr : (c2.toNat >>> 7 == 1) = decide (128 ≤ c2.toNat) := by
    rw [Nat.shiftRight_eq_div_pow, beq_eq_decide, decide_eq_decide]
    omega
  rw [ch2_mask_iff, ha, hr]
  constructor
  · rintro ⟨hb, rfl, rfl⟩
    have h31 : c2.toNat % 32 ≤ 31 := by omega
    rw [address_or_response h31, ← hb, BitVec.ofNat_toNat, BitVec.setWidth_eq]
    exact ⟨h31, rfl⟩
  · rintro ⟨h31, hb⟩
    have hb : c2.toNat = r.toNat * 128 + a := by
      have := r.toNat_le
      rw [hb, address_or_response h31, BitVec.toNat_ofNat]
      omega
    have hm : c2.toNat % 32 = a := by omega
    have hd : decide (128 ≤ c2.toNat) = r := by
      rw [hb]
      cases r with
      | false => exact decide_eq_false (by rw [Bool.toNat_false]; omega)
      | true => exact decide_eq_true (by rw [Bool.toNat_true]; omega)
    exact ⟨by rw [hd, hm, hb], hm, hd⟩

theorem byte_toNat_eq_iff {b : Byte} {v : Nat} : b.toNat = v ↔ v ≤ 255 ∧ b = BitVec.ofNat 8 v := by
  rw [← BitVec.toNat_inj, BitVec.toNat_ofNat]
  omega

/-- Seven bytes are accepted exactly when the first five are the fields of legal operands and the sums cancel. -/
theorem decodeHeader_eq_some_iff (c0 c1 c2 c3 c4 c5 c6 : Byte) (h : Header) :
    decodeHeader [c0, c1, c2, c3, c4, c5, c6] = some h ↔
      legalOperands h.a h.p h.t h.r h.n = true ∧ [c0, c1, c2, c3, c4] = headerFields h.n h.a h.p h.t h.r ∧
        f16 [c0, c1, c2, c3, c4, c5, c6] = (0, 0) := by
  obtain ⟨n, a, r, p, t⟩ := h
  simp only [decodeHeader, headerFields, legalOperands_iff, Option.ite_none_right_eq_some, Option.some.injEq,
    Header.mk.injEq, List.cons.injEq, and_true]
  constructor
  · rintro ⟨⟨hm0, hm2, hb, hf⟩, rfl, rfl, rfl, rfl, rfl⟩
    obtain ⟨hn, e0, e1⟩ := decode_payload_length_iff.1 ⟨hm0, rfl⟩
    obtain ⟨ha, e2⟩ := decode_address_iff.1 ⟨hm2, rfl, rfl⟩
    obtain ⟨hp, e3⟩ := byte_toNat_eq_iff.1 (rfl : c3.toNat = _)
    obtain ⟨ht, e4⟩ := byte_toNat_eq_iff.1 (rfl : c4.toNat = _)
    exact ⟨⟨ha, hp, ht, hb, hn⟩, ⟨e0, e1, e2, e3, e4⟩, hf⟩
  · rintro ⟨⟨ha, hp, ht, hb, hn⟩, ⟨e0, e1, e2, e3, e4⟩, hf⟩
    obtain ⟨hm0, rn⟩ := decode_payload_length_iff.2 ⟨hn, e0, e1⟩
    obtain ⟨hm2, ra, rr⟩ := decode_address_iff.2 ⟨ha, e2⟩
    exact ⟨⟨hm0, hm2, by rwa [ra, rr], hf⟩, rn, ra, rr, byte_toNat_eq_iff.2 ⟨hp, e3⟩, byte_toNat_eq_iff.2 ⟨ht, e4⟩⟩

/-- A header of legal operands decodes to them (R81). -/
theorem decodeHeader_header {a p t : Nat} {r : Bool} {n : Nat} (h : legalOperands a p t r n = true) :
    decodeHeader (header n a p t r) = some { n := n, a := a, r := r, p := p, t := t } :=
  (decodeHeader_eq_some_iff ..).2 ⟨h, rfl, f16_append_checkBytes (headerFields n a p t r)⟩

/-- Only seven bytes are a header. -/
theorem length_of_decodeHeader {bytes : List Byte} {h : Header} (hd : decodeHeader bytes = some h) :
    bytes.length = 7 := by
  unfold decodeHeader at hd
  split at hd
  · rfl
  · cases hd

theorem exists_bytes_of_length_seven {bytes : List Byte} (h : bytes.length = 7) :
    ∃ c0 c1 c2 c3 c4 c5 c6, bytes = [c0, c1, c2, c3, c4, c5, c6] :=
  match bytes, h with
  | [_, _, _, _, _, _, _], _ => ⟨_, _, _, _, _, _, _, rfl⟩

/-- Settles O22: the five fields in bit form, and so their check bytes. -/
theorem headerBitLayout : Obligations.HeaderBitLayout := by
  intro n a p t r h
  rw [header, headerFields_bits h]

/-- Settles O23: on seven bytes, each mask test and reading together say that the byte is the one R78 makes of the
operand; no other list is accepted. -/
theorem headerDecodeInverts : Obligations.HeaderDecodeInverts := by
  refine ⟨fun _ _ _ _ _ => decodeHeader_header, fun bytes h => ?_⟩
  by_cases hl : bytes.length = 7
  · obtain ⟨c0, c1, c2, c3, c4, c5, c6, rfl⟩ := exists_bytes_of_length_seven hl
    simpa using decodeHeader_eq_some_iff c0 c1 c2 c3 c4 c5 c6 h
  · exact iff_of_false (fun hd => hl (length_of_decodeHeader hd)) (fun ⟨_, _, h7, _⟩ => hl h7)

end Sys2Proof.Machine

/-! PROOFS. O10 to O16, the checksum unit (40_checksum.md R90 to R98): the arithmetic of F16, then the two commands and
their runs, whose states are written by the two unreduced sums, then the views. -/

namespace Sys2Proof

/-! A command word by its two fields (R70). -/

theorem opcodeOf_append (op imm : Byte) : opcodeOf (op ++ imm) = op := by
  apply BitVec.eq_of_toNat_eq
  rw [opcodeOf_toNat, append_toNat]
  omega

theorem immOf_append (op imm : Byte) : immOf (op ++ imm) = imm := by
  apply BitVec.eq_of_toNat_eq
  rw [immOf_toNat, append_toNat]
  omega

theorem decode_append (op imm : Byte) : decode (op ++ imm) = decodeFields op imm := by
  rw [decode, opcodeOf_append, immOf_append]

end Sys2Proof

namespace Sys2Proof.Machine

/-! The sums as sums over the positions (R96). -/

theorem f16Sums_fst_eq_sum (d : List Byte) : (f16Sums 0 0 d).1 = ∑ i : Fin d.length, d[i].toNat := by
  rw [f16Sums_fst, Nat.zero_add]
  exact (Fin.sum_univ_fun_getElem d BitVec.toNat).symm

/-- Byte `i` enters `upper` once for itself and once for each byte after it; the start value of `lower` enters it
once per byte. -/
theorem f16Sums_snd (lo up : Nat) (d : List Byte) :
    (f16Sums lo up d).2 = up + d.length * lo + ∑ i : Fin d.length, (d.length - i) * d[i].toNat := by
  induction d generalizing lo up with
  | nil => simp
  | cons b d ih =>
    have hsum : ∑ i : Fin (b :: d).length, ((b :: d).length - i) * (b :: d)[i].toNat =
        (d.length + 1) * b.toNat + ∑ i : Fin d.length, (d.length - i) * d[i].toNat := by
      simp [Fin.sum_univ_succ]
    rw [f16Sums_cons, ih, hsum, List.length_cons]
    ring

/-! The size of the unreduced sums (R96): a byte is at most 255. -/

theorem f16Sums_fst_le (lo up : Nat) (d : List Byte) : (f16Sums lo up d).1 ≤ lo + 255 * d.length := by
  induction d generalizing lo up with
  | nil => simp
  | cons b d ih =>
    have hb := b.isLt
    have := ih (lo + b.toNat) (up + (lo + b.toNat))
    rw [f16Sums_cons, List.length_cons]
    omega

theorem two_mul_f16Sums_snd_le (lo up : Nat) (d : List Byte) :
    2 * (f16Sums lo up d).2 ≤ 2 * up + 2 * (d.length * lo) + 255 * d.length * (d.length + 1) := by
  induction d generalizing lo up with
  | nil => simp
  | cons b d ih =>
    have hb : (d.length + 1) * b.toNat ≤ (d.length + 1) * 255 := Nat.mul_le_mul_left _ (Nat.le_of_lt_succ b.isLt)
    have := ih (lo + b.toNat) (up + (lo + b.toNat))
    rw [f16Sums_cons, List.length_cons]
    linarith

theorem f16Sums_snd_le (d : List Byte) : (f16Sums 0 0 d).2 ≤ 255 * d.length * (d.length + 1) / 2 := by
  have := two_mul_f16Sums_snd_le 0 0 d
  omega

/-- Settles O13: the sums by position, and their bounds by length. -/
theorem fletcherClosedForm : Obligations.FletcherClosedForm := by
  intro d
  have hlo := f16Sums_fst_le 0 0 d
  have hup := f16Sums_snd_le d
  refine ⟨?lower, ?upper, by omega, hup, fun hm => ?m128⟩
  case lower => rw [f16, f16Sums_fst_eq_sum]
  case upper => simp only [f16, f16Sums_snd, Nat.zero_add, Nat.mul_zero]
  case m128 =>
    rw [hm] at hlo hup
    omega

/-! The check bytes (R97, R98). -/

theorem f16_append_pair_eq_zero_iff (d : List Byte) (c0 c1 : Byte) :
    f16 (d ++ [c0, c1]) = (0, 0) ↔
      ((f16 d).1 + (f16 d).2 + c0.toNat) % 255 = 0 ∧ ((f16 d).1 + c0.toNat + c1.toNat) % 255 = 0 := by
  rw [f16_append_pair, Prod.mk.injEq]
  omega

/-- Settles O14: for the data 0x01, with check bytes 0xFD, 0x01, the other order does not cancel. -/
theorem checkBytesCancel : Obligations.CheckBytesCancel :=
  ⟨f16_append_checkBytes, f16_append_pair_eq_zero_iff, [0x01#8], by decide⟩

/-- F16 sees the residue of a byte only. -/
theorem f16_congr_byte {b b' : Byte} (h : b.toNat ≡ b'.toNat [MOD 255]) (d e : List Byte) :
    f16 (d ++ b :: e) = f16 (d ++ b' :: e) := by
  have hlo := h.add_left (f16Sums 0 0 d).1
  obtain ⟨h1, h2⟩ := f16Sums_modEq hlo (hlo.add_left (f16Sums 0 0 d).2) e
  rw [f16, f16, f16Sums_append, f16Sums_append]
  exact Prod.ext h1 h2

theorem f16_zero_eq_ff (d e : List Byte) : f16 (d ++ 0x00#8 :: e) = f16 (d ++ 0xFF#8 :: e) :=
  f16_congr_byte (by decide) d e

/-- CHK makes the numbers 1..255 (R90). -/
theorem ne_zero_of_mem_checkBytes {d : List Byte} {c : Byte} (h : c ∈ checkBytes d) : c ≠ 0x00#8 := by
  rintro rfl
  have h0 := List.mem_map_of_mem (f := BitVec.toNat) h
  have hc0 := chk0_range (f16 d).1 (f16 d).2
  have hc1 := chk1_range (f16 d).1 (f16 d).2
  rw [checkBytes_toNat, List.mem_pair, BitVec.toNat_ofNat] at h0
  omega

/-- Settles O15: with 0xFF for the 0x00, the two bytes are the data's own check bytes. -/
theorem checksumBlindToZeroAndFF : Obligations.ChecksumBlindToZeroAndFF := by
  refine ⟨f16_zero_eq_ff, fun d c0 c1 hc => ?_⟩
  have hcancel : f16 (d ++ [c0, c1]) = (0, 0) := hc ▸ f16_append_checkBytes d
  have hne : ∀ c ∈ [c0, c1], c ≠ 0x00#8 := hc ▸ fun _ => ne_zero_of_mem_checkBytes
  refine ⟨hne c0 (by simp), hne c1 (by simp), ?c0, ?c1⟩
  case c0 =>
    rintro rfl
    rw [f16_zero_eq_ff, hcancel]
  case c1 =>
    rintro rfl
    rw [List.append_cons] at hcancel ⊢
    rw [f16_zero_eq_ff, hcancel]

/-! The two commands (R91, R92) and their runs (R95). -/

/-- The state whose registers hold the residues of the sums `lo` and `up`, after a command that completed. -/
def State.withSums (s : State) (lo up : Nat) : State :=
  { s with lower := BitVec.ofNat 8 (lo % 255), upper := BitVec.ofNat 8 (up % 255), fail := false }

theorem withSums_lower_toNat (s : State) (lo up : Nat) : (s.withSums lo up).lower.toNat = lo % 255 := by
  simp only [State.withSums, BitVec.toNat_ofNat]
  omega

theorem withSums_upper_toNat (s : State) (lo up : Nat) : (s.withSums lo up).upper.toNat = up % 255 := by
  simp only [State.withSums, BitVec.toNat_ofNat]
  omega

theorem exec_flInit_withSums (s : State) : exec .flInit s = .next (s.withSums 0 0) := rfl

/-- FL.ABSORB in terms of the sums in the registers. -/
theorem exec_flAbsorb_eq_withSums (s : State) (b : Byte) :
    exec (.flAbsorb b) s =
      .next (s.withSums (s.lower.toNat + b.toNat) (s.upper.toNat + (s.lower.toNat + b.toNat) % 255)) := rfl

/-- The rolling step reduces, the reference does not: the residues stay the same. -/
theorem exec_flAbsorb_withSums (s : State) (lo up : Nat) (b : Byte) :
    exec (.flAbsorb b) (s.withSums lo up) = .next (s.withSums (lo + b.toNat) (up + (lo + b.toNat))) := by
  rw [exec_flAbsorb_eq_withSums, withSums_lower_toNat, withSums_upper_toNat]
  simp only [State.withSums, Nat.mod_add_mod, Nat.add_mod_mod]

theorem execAll_flAbsorb_withSums (s : State) (lo up : Nat) (d : List Byte) :
    execAll (d.map .flAbsorb) (s.withSums lo up) =
      .next (s.withSums (f16Sums lo up d).1 (f16Sums lo up d).2) := by
  induction d generalizing lo up with
  | nil => rfl
  | cons b d ih =>
    rw [List.map_cons, execAll, exec_flAbsorb_withSums]
    exact ih _ _

/-- FL.INIT and one FL.ABSORB per byte (R95). -/
theorem execAll_checksumCommands (s : State) (d : List Byte) :
    execAll (checksumCommands d) s = .next (s.withSums (f16Sums 0 0 d).1 (f16Sums 0 0 d).2) := by
  rw [checksumCommands, execAll, exec_flInit_withSums]
  exact execAll_flAbsorb_withSums s 0 0 d

/-- Settles O12: the run ends in the residues of the unreduced sums, which F16 is. -/
theorem rollingEqualsFinalReduction : Obligations.RollingEqualsFinalReduction := by
  intro s d
  refine ⟨_, execAll_checksumCommands s d, ?_, rfl⟩
  rw [withSums_lower_toNat, withSums_upper_toNat, f16]

/-- Zero sums: the check bytes are 0xFF (R94). -/
theorem flChk_of_sums_zero {s : State} (hl : s.lower = 0) (hu : s.upper = 0) : s.flChk0 = 0xFF ∧ s.flChk1 = 0xFF := by
  rw [State.flChk0, State.flChk1, hl, hu]
  decide

theorem decodeNoImm_of_ne_zero {imm : Byte} (h : imm ≠ 0) (op : Byte) (i : Instr) :
    decodeNoImm op imm i = .error (.nonzeroImmediate op imm) := if_neg h

/-- Settles O10: the word's immediate is not 0, or the state after the command. -/
theorem flInitStartsChecksum : Obligations.FlInitStartsChecksum := by
  refine ⟨by decide, fun imm h => ?illegal, fun s => ?effect⟩
  case illegal => exact ⟨_, (decode_append _ _).trans (decodeNoImm_of_ne_zero h _ .flInit)⟩
  case effect => exact ⟨_, execFlInit_eq s, rfl, by simp [State.z], flChk_of_sums_zero rfl rfl⟩

theorem decode_flAbsorb_word (b : Byte) : decode (BitVec.ofNat 16 (0x1100 + b.toNat)) = .ok (.flAbsorb b) := by
  have hword : BitVec.ofNat 16 (0x1100 + b.toNat) = 0x11#8 ++ b := by
    apply BitVec.eq_of_toNat_eq
    rw [append_toNat, BitVec.toNat_ofNat, BitVec.toNat_ofNat]
    omega
  rw [hword, decode_append]
  rfl

/-- 0x00 and 0xFF are 0 modulo 255. -/
theorem lower_add_zero_or_ff_mod {l b : Byte} (hl : l.toNat ≤ 254) (hb : b = 0x00#8 ∨ b = 0xFF#8) :
    (l.toNat + b.toNat) % 255 = l.toNat := by
  rcases hb with rfl | rfl
  · exact Nat.mod_eq_of_lt (Nat.lt_succ_of_le hl)
  · exact (Nat.add_mod_right _ _).trans (Nat.mod_eq_of_lt (Nat.lt_succ_of_le hl))

/-- Settles O11: the word by its fields, and the two sums of the state after the command. -/
theorem flAbsorbRollsSums : Obligations.FlAbsorbRollsSums := by
  refine ⟨decode_flAbsorb_word, fun s b => ⟨_, exec_flAbsorb_eq_withSums s b, rfl, ?_⟩⟩
  rw [withSums_lower_toNat, withSums_upper_toNat]
  refine ⟨rfl, rfl, by omega, by omega, fun hl hb => ?_⟩
  have hmod := lower_add_zero_or_ff_mod hl hb
  exact ⟨BitVec.eq_of_toNat_eq ((withSums_lower_toNat ..).trans hmod), by rw [hmod]⟩

/-! The views (R94). -/

/-- A read of a readable register answers its value and changes nothing else (R38, R51). -/
theorem step_read_reg {s : State} {rest : List HostEvent} {r : Reg} (hr : r.access ≠ .writeOnly)
    (hq : s.queue = .read 0 (BitVec.ofNat 16 r.number) :: rest) :
    step s = .next { s with queue := rest, answer := some (s.readReg r) } := by
  have hnum : (BitVec.ofNat 16 r.number).toNat = r.number := by cases r <;> rfl
  have hread : ({ s with queue := rest } : State).readReg r = s.readReg r := by cases r <;> rfl
  refine step_read_legal hq ?_
  rw [← hread, hnum]
  simp [State.readElement, State.readRegSpace, ofNumber_number, hr]

/-- Settles O16: the two reads by R94's formula, and the range of CHK. -/
theorem checkByteViews : Obligations.CheckByteViews := by
  intro s rest
  obtain ⟨h0, h0'⟩ := chk0_range s.lower.toNat s.upper.toNat
  obtain ⟨h1, h1'⟩ := chk1_range s.lower.toNat s.upper.toNat
  exact ⟨step_read_reg (r := .flChk0) nofun, step_read_reg (r := .flChk1) nofun, ⟨h0, h0', h1, h1'⟩,
    flChk_of_sums_zero⟩

end Sys2Proof.Machine

/-! PROOFS. O18 and O24, the framer (41_framer.md R106, R114): ENC.RUN's answer from its validation, the check each
fault comes from, and the reading of a body back, chunk record by chunk record. -/

namespace Sys2Proof.Machine

/-! ENC.RUN by the outcome of its validation (R106). -/

theorem exec_encRun_of_encFault {s : State} {f : ErrField} {v lo hi : Nat} (h : s.encFault = some (f, v, lo, hi)) :
    exec .encRun s = .next (s.raise true .validationError f v lo hi) := by
  simp [exec, execEncRun, h]

theorem exec_encRun_of_legalOperands {s : State}
    (h : legalOperands s.address.toNat s.port.toNat s.token.toNat s.respExp s.cmdSize.toNat = true) :
    exec .encRun s = .next (s.encOutput.noteRead .cbuf 0 s.cmdSize.toNat).complete := by
  simp [exec, execEncRun, (encFault_eq_none_iff s).2 h]

section Validation

variable {s : State}

/-! The five checks: each is reached when those before it pass. -/

theorem encFault_address (ha : 31 < s.address.toNat) : s.encFault = some (.address, s.address.toNat, 0, 31) :=
  if_pos ha

theorem encFault_port (ha : s.address.toNat ≤ 31) (hp : 255 < s.port.toNat) :
    s.encFault = some (.port, s.port.toNat, 0, 255) := by
  rw [State.encFault, if_neg ha.not_gt, if_pos hp]

theorem encFault_token (ha : s.address.toNat ≤ 31) (hp : s.port.toNat ≤ 255) (ht : 255 < s.token.toNat) :
    s.encFault = some (.token, s.token.toNat, 0, 255) := by
  rw [State.encFault, if_neg ha.not_gt, if_neg hp.not_gt, if_pos ht]

theorem encFault_responseExpected (ha : s.address.toNat = 0) (hp : s.port.toNat ≤ 255) (ht : s.token.toNat ≤ 255)
    (hr : s.respExp = true) : s.encFault = some (.responseExpected, 1, 0, 0) := by
  have ha31 : s.address.toNat ≤ 31 := ha.trans_le (Nat.zero_le 31)
  rw [State.encFault, if_neg ha31.not_gt, if_neg hp.not_gt, if_neg ht.not_gt, if_pos ⟨ha, hr⟩]

theorem encFault_cmdSize (ha : s.address.toNat ≤ 31) (hp : s.port.toNat ≤ 255) (ht : s.token.toNat ≤ 255)
    (hb : ¬(s.address.toNat = 0 ∧ s.respExp = true)) (hn : 2047 < s.cmdSize.toNat) :
    s.encFault = some (.cmdSize, s.cmdSize.toNat, 0, 2047) := by
  rw [State.encFault, if_neg ha.not_gt, if_neg hp.not_gt, if_neg ht.not_gt, if_neg hb, if_pos hn]

end Validation

/-- Settles O18: the check that fails first, and the record it raises. -/
theorem encRunValidatesInOrder : Obligations.EncRunValidatesInOrder := fun _ =>
  ⟨fun ha => exec_encRun_of_encFault (encFault_address ha),
    fun ha hp => exec_encRun_of_encFault (encFault_port ha hp),
    fun ha hp ht => exec_encRun_of_encFault (encFault_token ha hp ht),
    fun ha hp ht hr => exec_encRun_of_encFault (encFault_responseExpected ha hp ht hr),
    fun ha hp ht hb hn => exec_encRun_of_encFault (encFault_cmdSize ha hp ht hb hn)⟩

/-! Reading a packet back (R114). -/

/-- REORDER is its own inverse (R127): sub-group by sub-group, and on a short last one. -/
@[simp] theorem reorder_reorder : ∀ c : List Byte, reorder (reorder c) = c
  | a :: b :: c :: d :: rest => by rw [reorder_group, reorder_group, reorder_reorder rest]
  | [] | [_] | [_, _] | [_, _, _] => rfl

@[simp] theorem transmitted_nil (o : Bool) : transmitted o [] = [] := by
  cases o <;> rfl

@[simp] theorem transmitted_transmitted (o : Bool) (c : List Byte) : transmitted o (transmitted o c) = c := by
  cases o with
  | false => rfl
  | true => exact reorder_reorder c

/-- A chunk record at the front of a body gives its chunk back, whatever follows it. -/
theorem unframe_chunkRecord_append (o : Bool) (k n : Nat) (c body : List Byte) (hc : c.length = min 128 n) :
    unframe o (k + 1) n (chunkRecord o c ++ body) = c ++ unframe o k (n - c.length) body := by
  have htake : (chunkRecord o c ++ body).take c.length = transmitted o c := by
    rw [chunkRecord, List.append_assoc]
    exact List.take_left' (transmitted_length o c)
  have hdrop : (chunkRecord o c ++ body).drop (c.length + 2) = body := List.drop_left' (chunkRecord_length o c)
  rw [unframe, ← hc, htake, transmitted_transmitted, hdrop]

/-- The body of a payload of at most k chunks gives the payload back. -/
theorem unframe_packetBody (o : Bool) (k : Nat) (d : List Byte) (h : d.length ≤ 128 * k) :
    unframe o k d.length (packetBody o d) = d := by
  induction k generalizing d with
  | zero => exact (List.length_eq_zero_iff.1 (Nat.le_zero.1 h)).symm
  | succ k ih =>
    by_cases hd : d = []
    · subst hd
      simpa [unframe] using ih [] (Nat.zero_le _)
    · have hrest : d.length - (d.take 128).length = (d.drop 128).length := by
        rw [List.length_take, List.length_drop]
        omega
      rw [packetBody_step o d hd, unframe_chunkRecord_append _ _ _ _ _ List.length_take, hrest,
        ih _ (by rw [List.length_drop]; omega), List.take_append_drop]

/-- Settles O24: PBUF holds the header followed by the body, each of which reads back; a record is its transmitted
chunk followed by the check bytes of that. -/
theorem packetRoundTrip : Obligations.PacketRoundTrip := by
  refine ⟨fun s hl => ?_, fun o c => ⟨f16_append_checkBytes _, chunkRecord_length o c⟩⟩
  obtain ⟨-, -, -, -, hn⟩ := (legalOperands_iff _ _ _ _ _).1 hl
  have hlen : (s.memRead .cbuf 0 s.cmdSize.toNat).length = s.cmdSize.toNat := memRead_length ..
  refine ⟨_, _, exec_encRun_of_legalOperands hl, encOutput_packetBytes? s hn, ?header, ?payload⟩
  case header =>
    rw [packet, List.take_left' (header_length ..), hlen]
    exact decodeHeader_header hl
  case payload =>
    have hbody := unframe_packetBody s.propcr 16 (s.memRead .cbuf 0 s.cmdSize.toNat) (by omega)
    rw [packet, List.drop_left' (header_length ..)]
    rwa [hlen] at hbody

end Sys2Proof.Machine

/-! PROOFS. O25 and O26, the reorder multiplexer (42_reorder.md R126, R127): SEL sub-group by sub-group, the bytes of a
transmitted chunk, and REORDER as reversals of aligned sub-groups. -/

namespace Sys2Proof.Machine

/-! SEL (R126). -/

theorem sel_lt {len j : Nat} (h : j < len) : sel len j < len := by
  simp only [sel, Config.group]
  omega

/-- SEL in a full sub-group. -/
theorem sel_of_full {len j : Nat} (h : 4 * (j / 4) + 4 ≤ len) : sel len j = 4 * (j / 4) + (3 - j % 4) := by
  simp only [sel, Config.group]
  omega

/-- The sub-groups after the first are selected as those of the rest. -/
theorem sel_add_four (len j : Nat) : sel (len + 4) (j + 4) = sel len j + 4 := by
  simp only [sel, Config.group]
  omega

/-- Inverting the two low bits keeps the sub-group and mirrors the position in it. -/
theorem xor_three (j : Nat) : j ^^^ 3 = 4 * (j / 4) + (3 - j % 4) := by
  have hgroup : (j ^^^ 3) / 2 ^ 2 = j / 4 := by
    rw [Nat.xor_div_two_pow]
    exact Nat.xor_zero _
  have hplace : (j ^^^ 3) % 2 ^ 2 = 3 - j % 4 := by
    have hmirror : ∀ k < 4, k ^^^ 3 = 3 - k := by decide
    rw [Nat.xor_mod_two_pow]
    exact hmirror _ (Nat.mod_lt _ (by decide))
  rw [← hgroup, ← hplace]
  exact (Nat.div_add_mod _ _).symm

/-! The transmitted chunk, byte by byte (R126). -/

theorem getElem?_reorder : ∀ (chunk : List Byte) (j : Nat), j < chunk.length →
    (reorder chunk)[j]? = chunk[sel chunk.length j]?
  | a :: b :: c :: d :: rest, j, hj => by
    rw [reorder_group]
    match j with
    | k + 4 =>
      have hk : k < rest.length := Nat.lt_of_add_lt_add_right hj
      simp only [List.length_cons, sel_add_four]
      exact getElem?_reorder rest k hk
    | 0 | 1 | 2 | 3 =>
      rw [sel_of_full (by simp)]
      rfl
  | [_], 0, _ | [_, _], 0, _ | [_, _], 1, _ | [_, _, _], 0, _ | [_, _, _], 1, _ | [_, _, _], 2, _ => rfl

theorem getElem?_transmitted (o : Bool) {chunk : List Byte} {j : Nat} (h : j < chunk.length) :
    (transmitted o chunk)[j]? = chunk[if o = true then sel chunk.length j else j]? := by
  cases o with
  | false => rfl
  | true => exact getElem?_reorder chunk j h

/-- The bytes one turn of ENC.RUN's loop puts before the check bytes (R109, R126). -/
theorem read?_encChunk_payload (s : State) (w i : Nat) {len j : Nat} (m : Memory) (h : j < len) :
    Memory.read? (s.encChunk w i len m) (w + j) =
      some (s.byteAt .cbuf (i + if s.propcr = true then sel len j else j)) := by
  have hlen : (s.memRead .cbuf i len).length = len := memRead_length ..
  have hsel : (if s.propcr = true then sel len j else j) < len := by
    split
    · exact sel_lt h
    · exact h
  rw [read?_encChunk, if_pos (by omega), Nat.add_sub_cancel_left, chunkRecord,
    List.getElem?_append_left (by rwa [transmitted_length, hlen]), getElem?_transmitted _ (by rwa [hlen]), hlen,
    memRead_getElem? _ _ _ _ _ hsel]

/-- Settles O25: the transmitted chunk byte by byte, one turn of ENC.RUN's loop, and SEL's values. -/
theorem reorderIsMultiplexer : Obligations.ReorderIsMultiplexer :=
  ⟨fun chunk j hj => ⟨sel_lt hj, getElem?_reorder chunk j hj, rfl⟩,
    fun s w i _ _ m hj => read?_encChunk_payload s w i m hj,
    fun _ j hfull => (sel_of_full hfull).trans (xor_three j).symm,
    by decide⟩

/-! REORDER as a permutation made of aligned sub-groups (R127). -/

theorem reorder_perm : ∀ c : List Byte, (reorder c).Perm c
  | a :: b :: c :: d :: rest => (List.reverse_perm [a, b, c, d]).append (reorder_perm rest)
  | [] | [_] | [_, _] | [_, _, _] => List.reverse_perm _

/-- `lower` is a sum of the bytes, which is order-free. -/
theorem f16_fst_perm {c d : List Byte} (h : c.Perm d) : (f16 c).1 = (f16 d).1 := by
  simp only [f16, f16Sums_fst, (h.map BitVec.toNat).sum_eq]

/-- A cut on a sub-group boundary does not matter. -/
theorem reorder_append : ∀ c e : List Byte, c.length % 4 = 0 → reorder (c ++ e) = reorder c ++ reorder e
  | [], _, _ => rfl
  | a :: b :: c :: d :: rest, e, h => by
    have hrest : rest.length % 4 = 0 := (Nat.add_mod_right rest.length 4).symm.trans h
    simp [reorder_append rest e hrest]

/-- 128 is a multiple of 4; where fewer bytes are there, none are left. -/
theorem reorder_take_append_drop (d : List Byte) : reorder (d.take 128) ++ reorder (d.drop 128) = reorder d := by
  rcases Nat.le_total 128 d.length with hfull | hlast
  · rw [← reorder_append _ _ (by rw [List.length_take, Nat.min_eq_left hfull]), List.take_append_drop]
  · rw [List.take_of_length_le hlast, List.drop_of_length_le hlast, reorder_nil, List.append_nil]

theorem reorder_chunks (d : List Byte) :
    (List.range (numChunks d.length)).flatMap (fun k => reorder (chunkOf d k)) = reorder d := by
  induction h : d.length using Nat.strong_induction_on generalizing d with
  | _ n ih =>
    subst h
    by_cases hd : d = []
    · subst hd
      rfl
    · have hpos := List.length_pos_iff.2 hd
      rw [flatMap_chunks reorder d hd, ih (d.drop 128).length (by rw [List.length_drop]; omega) _ rfl,
        reorder_take_append_drop]

/-- Settles O26: the laws of REORDER above, and the check bytes of R127's example by evaluation. -/
theorem reorderProperties : Obligations.ReorderProperties :=
  ⟨fun c => ⟨reorder_length c, reorder_perm c, reorder_reorder c, f16_fst_perm (reorder_perm c), rfl⟩,
    fun _ => rfl, fun c b hc => reorder_append c [b] hc, reorder_chunks, by decide⟩

end Sys2Proof.Machine

/-! PROOFS. O27, O30, O31 and O34, the response decoder (43_decoder.md R136 to R141): a byte sequence as a number, its
signed image as a sign extension, the opening of a transaction, and the cursor over a run of commands. -/

namespace Sys2Proof.Machine

/-! Value assembly (R138), by the first byte. -/

/-- The first byte is the most significant one. -/
theorem be_cons (b : Byte) (d : List Byte) : be (b :: d) = b.toNat * 256 ^ d.length + be d := by
  induction d using List.reverseRecOn with
  | nil => simp [be]
  | append_singleton d c ih =>
    rw [← List.cons_append, be_append_singleton, be_append_singleton, ih, List.length_append, List.length_singleton]
    ring

theorem be_eq_sum (d : List Byte) : be d = ∑ k : Fin d.length, d[k].toNat * 256 ^ (d.length - 1 - k) := by
  induction d with
  | nil => rfl
  | cons b d ih =>
    have hexp (k : Nat) : d.length - 1 - k = d.length - (k + 1) := by omega
    simp [be_cons, ih, Fin.sum_univ_succ, hexp]

theorem le_eq_sum (d : List Byte) : le d = ∑ k : Fin d.length, d[k].toNat * 256 ^ (k : Nat) := by
  induction d with
  | nil => rfl
  | cons b d ih =>
    have hterm (x k : Nat) : 256 * (x * 256 ^ k) = x * 256 ^ (k + 1) := by ring
    simp [ih, Fin.sum_univ_succ, Finset.mul_sum, hterm]

/-- The two byte orders read a sequence from its two ends. -/
theorem le_eq_be_reverse (d : List Byte) : le d = be d.reverse := by
  induction d with
  | nil => rfl
  | cons b d ih =>
    rw [le_cons, List.reverse_cons, be_append_singleton, ih]
    ring

/-- Settles O30: the sums and bounds of the two byte orders, which mirror each other. -/
theorem integerAssembly : Obligations.IntegerAssembly := fun d =>
  ⟨be_eq_sum d, le_eq_sum d, be_lt d, le_lt d, le_eq_be_reverse d⟩

/-! The signed image (R139). -/

section SignedImage

variable {m u n : Nat} (hu : u < 2 ^ (8 * n))

include hu

theorem toNat_ofNat_bytes : (BitVec.ofNat (8 * n) u).toNat = u :=
  (BitVec.toNat_ofNat ..).trans (Nat.mod_eq_of_lt hu)

/-- R139's test is that of the sign bit of u taken as 8N bits. -/
theorem msb_ofNat_bytes : (BitVec.ofNat (8 * n) u).msb = !decide (n = 0 ∨ u < 2 ^ (8 * n - 1)) := by
  rw [BitVec.msb_eq_decide, toNat_ofNat_bytes hu, ← decide_not, decide_eq_decide]
  rcases Nat.eq_zero_or_pos n with rfl | hn
  · simpa using hu
  · omega

/-- u taken as 8N bits, in two's complement, is R139's v. -/
theorem toInt_ofNat_bytes : (BitVec.ofNat (8 * n) u).toInt =
    if n = 0 ∨ u < 2 ^ (8 * n - 1) then (u : Int) else (u : Int) - 2 ^ (8 * n) := by
  rw [BitVec.toInt_eq_msb_cond, msb_ofNat_bytes hu, toNat_ofNat_bytes hu]
  by_cases hpos : n = 0 ∨ u < 2 ^ (8 * n - 1) <;> simp [hpos]

/-- R139: the signed image is the sign extension. -/
theorem signedImage_eq_signExtend (hn : n ≤ m) :
    signedImage m u n = ((BitVec.ofNat (8 * n) u).signExtend (8 * m)).toNat := by
  have hpow : 2 ^ (8 * n) ≤ 2 ^ (8 * m) := Nat.pow_le_pow_right (by decide) (by omega)
  rw [BitVec.toNat_signExtend, BitVec.toNat_setWidth_of_le (by omega), toNat_ofNat_bytes hu, msb_ofNat_bytes hu,
    signedImage]
  by_cases hpos : n = 0 ∨ u < 2 ^ (8 * n - 1)
  · simp [hpos]
  · simp only [hpos, if_false, decide_false, Bool.not_false, if_true]
    omega

end SignedImage

/-- Settles O31: RESULT is an extension of u taken as 8N bits, and extending keeps the value. -/
theorem signedImageSignExtends : Obligations.SignedImageSignExtends := by
  refine ⟨fun m u n hn hu => ?_, by decide, by decide⟩
  have hwidth : 8 * n ≤ 8 * m := by omega
  have himage : resultImage m true u n = ((BitVec.ofNat (8 * n) u).signExtend (8 * m)).toNat :=
    signedImage_eq_signExtend hu hn
  refine ⟨rfl, ?unsigned, ?value, himage, rfl⟩
  case unsigned => exact ((BitVec.toNat_setWidth_of_le hwidth).trans (toNat_ofNat_bytes hu)).symm
  case value =>
    rw [himage, BitVec.ofNat_toNat, BitVec.setWidth_eq, BitVec.toInt_signExtend_of_le hwidth, toInt_ofNat_bytes hu]

/-! DEC.BEGIN (R136). -/

theorem exec_decBegin_of_too_long {s : State} (h : s.params.respMax < s.respLen.toNat) :
    exec .decBegin s = .next (s.raise true .badOperand .respLen s.respLen.toNat 0 s.params.respMax) :=
  if_pos h

theorem exec_decBegin_of_fits {s : State} (h : s.respLen.toNat ≤ s.params.respMax) :
    exec .decBegin s = .next s.openTransaction.complete :=
  if_neg h.not_gt

/-! The reads with too few bytes left (R137, R140). -/

theorem exec_decInt_of_remaining_lt {s : State} {n : Nat} (signed : Bool) (order : ByteOrder)
    (hn : n ≤ s.params.intMaxBytes) (hd : s.dopen = true) (hr : s.remaining < n) :
    exec (.decInt signed order n) s = .next (s.raise true .insufficientData .numBytes n 0 s.remaining) := by
  simp [exec, execDecInt, hn.not_gt, hd, hr]

theorem exec_decAscii_of_remaining_lt {s : State} {w : Nat} (hw : w = 3 ∨ w = 4) (hd : s.dopen = true)
    (hr : s.remaining < w) :
    exec (.decAscii w) s = .next (s.raise true .insufficientData .numArgBytes w 0 s.remaining) := by
  have hlegal : ¬(w ≠ 3 ∧ w ≠ 4) := by omega
  simp only [exec, execDecAscii, hlegal, hd, hr, if_false, if_true, Bool.true_eq_false, State.raiseCommand_eq]

/-- Settles O27: the word and its illegal forms, the two ends of DEC.BEGIN, and no byte remaining when RESP_LEN = 0. -/
theorem decBeginOpensTransaction : Obligations.DecBeginOpensTransaction := by
  refine ⟨by decide, fun imm h => ?illegal, fun s =>
    ⟨exec_decBegin_of_too_long, exec_decBegin_of_fits, fun hempty => ?empty⟩⟩
  case illegal => exact ⟨_, (decode_append _ _).trans (decodeNoImm_of_ne_zero h _ .decBegin)⟩
  case empty =>
    have hlen : s.respLen.toNat = 0 := congrArg BitVec.toNat hempty
    have hrem : s.openTransaction.complete.remaining = 0 := by simp [State.remaining, hlen]
    refine ⟨_, exec_decBegin_of_fits (hlen.trans_le (Nat.zero_le _)), rfl, fun signed order n hpos hn => ?int,
      fun w hw => ?ascii⟩
    case int => exact ⟨_, exec_decInt_of_remaining_lt signed order hn rfl (hrem.trans_lt hpos), rfl, rfl⟩
    case ascii => exact ⟨_, exec_decAscii_of_remaining_lt hw rfl (by omega), rfl, rfl⟩

/-! The cursor over a run of commands (R141). -/

/-- A command's fault that is not OutOfBounds consumes nothing. -/
theorem consumed_raise_of_ne {k : Cause} (hk : k ≠ .outOfBounds) (i : Instr) (s : State) (f : ErrField)
    (v lo hi : Nat) : consumed i (s.raise true k f v lo hi) = 0 := by
  have hcode : k.code ≠ Cause.outOfBounds.code := by
    cases k with
    | outOfBounds => exact absurd rfl hk
    | _ => decide
  exact if_neg (by simpa using hcode)

/-- From `s` to `t` the open transaction stayed open over the same response, and the cursor moved past `n` bytes of
it. -/
structure MovedPast (s t : State) (n : Nat) : Prop where
  cursor : t.argIndex.toNat = s.argIndex.toNat + n
  cursor_le : t.argIndex.toNat ≤ t.respLen.toNat
  dopen : t.dopen = true
  rbuf : t.rbuf = s.rbuf
  respLen : t.respLen = s.respLen

theorem MovedPast.trans {s t v : State} {m n : Nat} (h : MovedPast s t m) (k : MovedPast t v n) :
    MovedPast s v (m + n) where
  cursor := by rw [k.cursor, h.cursor, Nat.add_assoc]
  cursor_le := k.cursor_le
  dopen := k.dopen
  rbuf := k.rbuf.trans h.rbuf
  respLen := k.respLen.trans h.respLen

section OpenTransaction

variable {s : State} (hd : s.dopen = true) (hc : s.argIndex.toNat ≤ s.respLen.toNat)

include hd hc

/-- A state with the same cursor and response has moved past nothing. -/
theorem MovedPast.of_same {t : State} (ha : t.argIndex = s.argIndex) (ho : t.dopen = s.dopen) (hb : t.rbuf = s.rbuf)
    (hl : t.respLen = s.respLen) : MovedPast s t 0 :=
  ⟨by rw [ha, Nat.add_zero], by rwa [ha, hl], ho.trans hd, hb, hl⟩

/-- A state with the cursor moved over bytes that remain has moved past them (R40: no wrap). -/
theorem MovedPast.of_advance {n : Nat} (hr : n ≤ s.remaining) : MovedPast s (s.advance n) n := by
  have hsum : s.argIndex.toNat + n ≤ s.respLen.toNat := by
    rw [State.remaining] at hr
    omega
  have hcur : (s.advance n).argIndex.toNat = s.argIndex.toNat + n :=
    Nat.mod_eq_of_lt (hsum.trans_lt s.respLen.isLt)
  exact ⟨hcur, hcur.trans_le hsum, hd, rfl, rfl⟩

/-- Every command but DEC.BEGIN moves the cursor past what it consumed: nothing, or a reading command's N or W, which is
what `consumed` evaluates to in each case but a fault's. -/
theorem MovedPast.ended {i : Instr} {t : State} (hi : i ≠ .decBegin) (e : Ended s i t) :
    MovedPast s t (consumed i t) := by
  cases e with
  | faulted k f v lo hi hk =>
    rw [consumed_raise_of_ne hk]
    exact .of_same hd hc rfl rfl rfl rfl
  | cleared | started | absorbed | built => exact .of_same hd hc rfl rfl rfl rfl
  | opened => exact absurd rfl hi
  | readInteger signed order n hn _ hr => exact { MovedPast.of_advance hd hc hr with }
  | outOfBounds w hw _ hr hb => exact { MovedPast.of_advance hd hc hr with }
  | readString w hw _ hr hb => exact { MovedPast.of_advance hd hc hr with }

end OpenTransaction

/-- A run of commands without DEC.BEGIN moves the cursor past the sum of what they consume. -/
theorem execAll_movedPast {cs : List Instr} {s : State} (hcs : ∀ i ∈ cs, i ≠ .decBegin) (hd : s.dopen = true)
    (hc : s.argIndex.toNat ≤ s.respLen.toNat) :
    ∃ t, execAll cs s = .next t ∧ MovedPast s t (totalConsumed cs s) := by
  induction cs generalizing s with
  | nil => exact ⟨s, rfl, .of_same hd hc rfl rfl rfl rfl⟩
  | cons i cs ih =>
    obtain ⟨hi, hcs⟩ := List.forall_mem_cons.1 hcs
    obtain ⟨t, he⟩ := exec_answers_next i s
    have hstep := MovedPast.ended hd hc hi (exec_ended he)
    obtain ⟨v, hrun, hmoved⟩ := ih hcs hstep.dopen hstep.cursor_le
    simp only [execAll, totalConsumed, he]
    exact ⟨v, hrun, hstep.trans hmoved⟩

/-- Settles O34: the run starts with the cursor at 0, and one more command only moves it on. -/
theorem cursorCountsConsumedBytes : Obligations.CursorCountsConsumedBytes := by
  intro s t₀ cs hfits hcs hbegin
  rw [exec_decBegin_of_fits hfits] at hbegin
  cases hbegin
  obtain ⟨t, hrun, hmoved⟩ := execAll_movedPast hcs (s := s.openTransaction.complete) rfl (Nat.zero_le _)
  refine ⟨t, hrun, hmoved.cursor.trans (Nat.zero_add _), hmoved.cursor_le, hmoved.dopen, hmoved.rbuf, hmoved.respLen,
    fun i t' hi he => ?_⟩
  have hnext := MovedPast.ended hmoved.dopen hmoved.cursor_le hi (exec_ended he)
  exact (Nat.le_add_right _ _).trans_eq hnext.cursor.symm

end Sys2Proof.Machine

/-! PROOFS. O7 and O43, the system's own two answers (44_system.md R160, R161): an illegal word, whose decoding fails for
one of the two reasons of R76, and SYS.CLRERR. -/

namespace Sys2Proof.Machine

/-! Illegal words (R76). -/

/-- An opcode that R71 does not list. -/
theorem decodeFields_of_unassigned {op : Byte} (imm : Byte)
    (h : op.toNat ∉ [0x01, 0x10, 0x11, 0x20, 0x30, 0x31, 0x32]) :
    decodeFields op imm = .error (.unassignedOpcode op) := by
  have hne : ∀ k : Byte, k.toNat ∈ [0x01, 0x10, 0x11, 0x20, 0x30, 0x31, 0x32] → op ≠ k := by
    rintro k hk rfl
    exact h hk
  simp only [decodeFields, hne 0x01#8 (by decide), hne 0x10#8 (by decide), hne 0x11#8 (by decide),
    hne 0x20#8 (by decide), hne 0x30#8 (by decide), hne 0x31#8 (by decide), hne 0x32#8 (by decide), if_false]

/-- An immediate where R75 allows none. -/
theorem decodeFields_of_nonzero_imm {op imm : Byte} (hop : op.toNat ∈ [0x01, 0x10, 0x20, 0x30]) (himm : imm ≠ 0) :
    decodeFields op imm = .error (.nonzeroImmediate op imm) := by
  have hop : op = 0x01#8 ∨ op = 0x10#8 ∨ op = 0x20#8 ∨ op = 0x30#8 := by
    simpa [← BitVec.toNat_inj] using hop
  rcases hop with rfl | rfl | rfl | rfl
  · exact decodeNoImm_of_ne_zero himm _ .sysClrErr
  · exact decodeNoImm_of_ne_zero himm _ .flInit
  · exact decodeNoImm_of_ne_zero himm _ .encRun
  · exact decodeNoImm_of_ne_zero himm _ .decBegin

/-- A word illegal by its numbers does not decode. -/
theorem exists_decode_error {w : Word}
    (h : w.toNat / 256 ∉ [0x01, 0x10, 0x11, 0x20, 0x30, 0x31, 0x32] ∨
      (w.toNat / 256 ∈ [0x01, 0x10, 0x20, 0x30] ∧ w.toNat % 256 ≠ 0)) :
    ∃ e, decode w = .error e := by
  rw [← opcodeOf_toNat, ← immOf_toNat] at h
  rcases h with hop | ⟨hop, himm⟩
  · exact ⟨_, decodeFields_of_unassigned _ hop⟩
  · exact ⟨_, decodeFields_of_nonzero_imm hop fun h0 => himm (congrArg BitVec.toNat h0)⟩

/-- A write of an illegal word to CMD (R161). -/
theorem step_write_illegal {s : State} {w : Word} {rest : List HostEvent} {e : DecodeError}
    (hd : decode w = .error e) (hq : s.queue = .write 0 0 w.toNat :: rest) :
    step s = .next { ({ s with queue := rest } : State).illegalCommand w with answer := none } := by
  simp only [step, serve_submit hq, State.submit, hd]

/-- Settles O7: the word does not decode, and the fault is raised with the numbers of R171 and R172. -/
theorem illegalWordFaults : Obligations.IllegalWordFaults := by
  intro s rest w hw hq
  obtain ⟨e, hd⟩ := exists_decode_error hw
  exact step_write_illegal hd hq

/-- Settles O43: the word and its illegal forms; the command zeroes the record, and completing it zeroes FAIL. -/
theorem clrErrClearsRecord : Obligations.ClrErrClearsRecord := by
  refine ⟨by decide, fun imm h => ?illegal, fun s => ?clears⟩
  case illegal => exact ⟨_, (decode_append _ _).trans (decodeNoImm_of_ne_zero h _ .sysClrErr)⟩
  case clears => exact rfl

end Sys2Proof.Machine

/-! PROOFS. O1 to O5, the command word (30_encoding.md R70 to R76, R84): decoding inverts encoding on the operands an
immediate can carry and on the words that are legal; which words those are, by numbers and by the opcode table. -/

namespace Sys2Proof

/-- Settles O1: one evaluation of the decoder per word. -/
theorem specWordsDecode : Obligations.SpecWordsDecode := by
  unfold Obligations.SpecWordsDecode
  decide

/-- Settles O2: a word is 256 times its opcode plus its immediate. -/
theorem encodeFollowsAssemblerTable : Obligations.EncodeFollowsAssemblerTable := by
  refine ⟨by decide, by decide, by decide, by decide, fun b => encode_toNat (.flAbsorb b), fun signed order n hn => ?int,
    fun w hw => ?ascii⟩
  case int =>
    rw [encode_toNat, Instr.imm, encodeInt_toNat signed order n hn, ← Nat.add_assoc, ← Nat.add_assoc]
    rfl
  case ascii =>
    rw [encode_toNat, Instr.imm, BitVec.toNat_ofNat, Nat.mod_eq_of_lt (Nat.lt_succ_of_le hw)]
    rfl

/-- Settles O3: the fields of the word are the opcode and the immediate, and these decode to the instruction. -/
theorem decodeEncodeRoundTrip : Obligations.DecodeEncodeRoundTrip := by
  intro i hwf
  rw [decode, opcodeOf_encode, immOf_encode]
  cases i with
  | sysClrErr | flInit | flAbsorb | encRun | decBegin => rfl
  | decInt signed order n => exact congrArg Except.ok (decodeInt_encodeInt signed order n (of_decide_eq_true hwf))
  | decAscii w =>
    have hw : (BitVec.ofNat 8 w).toNat = w := Nat.mod_eq_of_lt (Nat.lt_succ_of_le (of_decide_eq_true hwf))
    exact congrArg (Except.ok ∘ Instr.decAscii) hw

/-- What the instruction a word decodes to says of its fields. -/
structure DecodesTo (op imm : Byte) (i : Instr) : Prop where
  wf : i.wf = true
  opcode : i.opcode = op
  imm : i.imm = imm

/-- A command that takes no immediate, decoded (R75). -/
theorem decodesTo_of_decodeNoImm {op imm : Byte} {i j : Instr} (h : decodeNoImm op imm j = .ok i)
    (hj : DecodesTo op 0 j) : DecodesTo op imm i := by
  by_cases himm : imm = 0
  · subst himm
    cases h
    exact hj
  · exact absurd ((if_neg himm).symm.trans h) nofun

/-- Each line of the opcode map R71. -/
theorem decodesTo_of_decodeFields {op imm : Byte} {i : Instr} (h : decodeFields op imm = .ok i) :
    DecodesTo op imm i := by
  unfold decodeFields at h
  split at h
  · subst op; exact decodesTo_of_decodeNoImm h ⟨rfl, rfl, rfl⟩
  split at h
  · subst op; exact decodesTo_of_decodeNoImm h ⟨rfl, rfl, rfl⟩
  split at h
  · subst op; cases h; exact ⟨rfl, rfl, rfl⟩
  split at h
  · subst op; exact decodesTo_of_decodeNoImm h ⟨rfl, rfl, rfl⟩
  split at h
  · subst op; exact decodesTo_of_decodeNoImm h ⟨rfl, rfl, rfl⟩
  split at h
  · subst op
    obtain ⟨signed, order, n, hi, hn, himm⟩ := decodeInt_cases imm
    rw [hi] at h
    cases h
    exact ⟨decide_eq_true hn, rfl, himm⟩
  split at h
  · subst op
    cases h
    exact ⟨decide_eq_true (Nat.le_of_lt_succ imm.isLt), rfl, (BitVec.ofNat_toNat 8 imm).trans (BitVec.setWidth_eq imm)⟩
  · cases h

/-- Settles O4: the instruction has the word's own two fields. -/
theorem encodeDecodeRoundTrip : Obligations.EncodeDecodeRoundTrip := by
  intro w i h
  obtain ⟨hwf, hop, himm⟩ := decodesTo_of_decodeFields h
  exact ⟨hwf, by rw [encode, hop, himm, fields_append]⟩

/-- A legal word by its fields: an opcode of R71, and no immediate where R75 allows none. -/
def LegalFields (op imm : Byte) : Prop :=
  op.toNat ∈ [0x01, 0x10, 0x11, 0x20, 0x30, 0x31, 0x32] ∧ (op.toNat ∈ [0x01, 0x10, 0x20, 0x30] → imm = 0)

/-- Legal fields decode. -/
theorem LegalFields.decodes {op imm : Byte} (h : LegalFields op imm) : ∃ i, decodeFields op imm = .ok i := by
  obtain ⟨hop, himm⟩ := h
  have hop : op = 0x01#8 ∨ op = 0x10#8 ∨ op = 0x11#8 ∨ op = 0x20#8 ∨ op = 0x30#8 ∨ op = 0x31#8 ∨ op = 0x32#8 := by
    simpa [← BitVec.toNat_inj] using hop
  rcases hop with rfl | rfl | rfl | rfl | rfl | rfl | rfl
  · rw [himm (by decide)]; exact ⟨_, rfl⟩
  · rw [himm (by decide)]; exact ⟨_, rfl⟩
  · exact ⟨_, rfl⟩
  · rw [himm (by decide)]; exact ⟨_, rfl⟩
  · rw [himm (by decide)]; exact ⟨_, rfl⟩
  · exact ⟨_, rfl⟩
  · exact ⟨_, rfl⟩

/-- A word of a row of the opcode table has legal fields: the mask covers the opcode, and the immediate too in the rows
of the commands that take none. -/
theorem legalFields_of_matches {r : TableRow} {w : Word} (hr : r ∈ opcodeTable) (h : r.matches w = true) :
    LegalFields (opcodeOf w) (immOf w) := by
  have hrow : w &&& r.mask = r.word := eq_of_beq h
  have hop : opcodeOf w &&& opcodeOf r.mask = opcodeOf r.word := by
    rw [← hrow, opcodeOf, opcodeOf, opcodeOf, BitVec.extractLsb'_and]
  have himm : immOf w &&& immOf r.mask = immOf r.word := by
    rw [← hrow, immOf, immOf, immOf, BitVec.extractLsb'_and]
  have key : ∀ r ∈ opcodeTable, opcodeOf r.mask = BitVec.allOnes 8 ∧
      (opcodeOf r.word).toNat ∈ [0x01, 0x10, 0x11, 0x20, 0x30, 0x31, 0x32] ∧
      ((opcodeOf r.word).toNat ∈ [0x01, 0x10, 0x20, 0x30] → immOf r.mask = BitVec.allOnes 8 ∧ immOf r.word = 0) := by
    decide
  obtain ⟨hmask, hlisted, hnone⟩ := key r hr
  rw [hmask, BitVec.and_allOnes] at hop
  rw [hop]
  refine ⟨hlisted, fun h4 => ?_⟩
  obtain ⟨hfull, hzero⟩ := hnone h4
  rwa [hfull, hzero, BitVec.and_allOnes] at himm

/-- Every instruction's row: exactly the rows with its mnemonic hold its word. -/
theorem matches_encode_iff {i : Instr} (hwf : i.wf = true) :
    ∀ r ∈ opcodeTable, (r.matches (encode i) = true ↔ r.mnemonic = i.mnemonic) := by
  cases i with
  | sysClrErr => exact Laws.TableRow.sysClrErr hwf
  | flInit => exact Laws.TableRow.flInit hwf
  | flAbsorb b => exact Laws.TableRow.flAbsorb b hwf
  | encRun => exact Laws.TableRow.encRun hwf
  | decBegin => exact Laws.TableRow.decBegin hwf
  | decInt signed order n => exact Laws.TableRow.decInt signed order n hwf
  | decAscii w => exact Laws.TableRow.decAscii w hwf

/-- Every instruction has a row (R71). -/
theorem exists_row (i : Instr) : ∃ r ∈ opcodeTable, r.mnemonic = i.mnemonic := by
  cases i <;> simp [opcodeTable, Instr.mnemonic]

/-- Settles O5: a row's word has legal fields and so decodes, and a word that decodes is one of its instruction's row;
a word whose numbers are not those of an illegal one has legal fields. -/
theorem legalWordsAreTableRows : Obligations.LegalWordsAreTableRows := by
  intro w
  have hrows : ∀ i, decode w = .ok i → ∀ r ∈ opcodeTable, (r.matches w = true ↔ r.mnemonic = i.mnemonic) := by
    intro i hi
    obtain ⟨hwf, rfl⟩ := encodeDecodeRoundTrip w i hi
    exact matches_encode_iff hwf
  refine ⟨⟨fun ⟨i, hi⟩ => ?row, fun ⟨r, hr, hm⟩ => (legalFields_of_matches hr hm).decodes⟩, hrows,
    ⟨fun ⟨e, he⟩ => ?illegal, Machine.exists_decode_error⟩⟩
  case row =>
    obtain ⟨r, hr, hname⟩ := exists_row i
    exact ⟨r, hr, (hrows i hi r hr).2 hname⟩
  case illegal =>
    by_contra hlegal
    rw [not_or, not_not, not_and, not_not, ← opcodeOf_toNat, ← immOf_toNat] at hlegal
    obtain ⟨i, hi⟩ := LegalFields.decodes ⟨hlegal.1, fun h => BitVec.eq_of_toNat_eq (hlegal.2 h)⟩
    rw [decode, hi] at he
    cases he

end Sys2Proof

/-! PROOFS. O6, O8 and O9, the step (44_system.md R162, 60_exceptions.md R170, R182): what it executes, when it is idle,
and that it always answers. -/

namespace Sys2Proof.Machine

/-- Settles O6: serving the write submits its word, which decodes. -/
theorem stepRunsDecodedCommand : Obligations.StepRunsDecodedCommand := fun _ _ _ _ hq hd => step_write_cmd hd hq

/-- Settles O8: with an empty queue nothing is served. -/
theorem idleKeepsState : Obligations.IdleKeepsState := by
  intro s hq
  rw [step, State.serve, hq]

/-- Settles O9: an event is done at once, or is a command, and every command answers a next state. -/
theorem everyStepAnswersNext : Obligations.EveryStepAnswersNext := by
  intro s
  rw [step]
  cases s.serve with
  | command i t => exact exec_answers_next i t
  | done t => exact ⟨t, rfl⟩

end Sys2Proof.Machine

/-! PROOFS. O17 and O37, the zero flag (40_checksum.md R93, R99). -/

namespace Sys2Proof.Machine

/-- Z as numbers (R93). -/
theorem z_iff (s : State) : s.z = true ↔ s.lower.toNat = 0 ∧ s.upper.toNat = 0 := by
  simp [State.z, ← BitVec.toNat_inj]

/-- Z after a checksum run: the sums cancel (R99). -/
theorem withSums_z_iff (s : State) (d : List Byte) :
    (s.withSums (f16Sums 0 0 d).1 (f16Sums 0 0 d).2).z = true ↔ f16 d = (0, 0) := by
  rw [z_iff, withSums_lower_toNat, withSums_upper_toNat, f16, Prod.mk.injEq]

/-- Settles O17: the state after the run holds the sums of all the bytes, and no command of it touches the record. -/
theorem verifyReadsZ : Obligations.VerifyReadsZ := by
  intro s d c0 c1
  refine ⟨_, execAll_checksumCommands s _, withSums_z_iff s _, fun hc => ?_, rfl, rfl, rfl⟩
  rw [withSums_z_iff, ← hc]
  exact f16_append_checkBytes d

/-- Settles O37: Z as numbers, and the last bit of STATUS. -/
theorem zeroFlagMeansSumsCancel : Obligations.ZeroFlagMeansSumsCancel := by
  refine fun s => ⟨z_iff s, ?_⟩
  rw [State.status, BitVec.getLsbD_append]
  simp

end Sys2Proof.Machine

/-! PROOFS. O19 to O21, the framer (41_framer.md R107 to R113): ENC.RUN's loop builds the wire packet, which the operands
and the payload determine, and the packet's length. -/

namespace Sys2Proof.Machine

/-- The bytes of the packet ENC.RUN builds depend on the operand registers and the payload alone. -/
theorem exec_encRun_congr {s t : State}
    (h : legalOperands s.address.toNat s.port.toNat s.token.toNat s.respExp s.cmdSize.toNat = true)
    (ha : t.address = s.address) (hp : t.port = s.port) (ht : t.token = s.token) (hf : t.flags = s.flags)
    (hn : t.cmdSize = s.cmdSize) (hd : t.memRead .cbuf 0 s.cmdSize.toNat = s.memRead .cbuf 0 s.cmdSize.toNat) :
    ∃ v, exec .encRun t = .next v ∧ v.pktLen = s.encOutput.pktLen ∧ v.packetBytes? = s.encOutput.packetBytes? := by
  have hr : t.respExp = s.respExp := by rw [State.respExp, hf, State.respExp]
  have ho : t.propcr = s.propcr := by rw [State.propcr, hf, State.propcr]
  obtain ⟨-, -, -, -, hsize⟩ := (legalOperands_iff _ _ _ _ _).1 h
  have hbytes : t.encOutput.packetBytes? = s.encOutput.packetBytes? := by
    rw [encOutput_packetBytes? s hsize, encOutput_packetBytes? t (by rwa [hn]), ha, hp, ht, hr, ho, hn, hd]
  refine ⟨_, exec_encRun_of_legalOperands (by rwa [ha, hp, ht, hr, hn]), ?_, hbytes⟩
  exact congrArg (fun n : Word => BitVec.ofNat 16 (packetLen n.toNat)) hn

/-- Settles O19: the state ENC.RUN leaves has the operands and the payload it started from. -/
theorem encRunCompletes : Obligations.EncRunCompletes := by
  intro s hl
  obtain ⟨-, -, -, -, hn⟩ := (legalOperands_iff _ _ _ _ _).1 hl
  exact ⟨_, exec_encRun_of_legalOperands hl, rfl, encOutput_pktLen_toNat s hn, fun _ => exec_encRun_congr hl,
    exec_encRun_congr hl rfl rfl rfl rfl rfl rfl⟩

/-- Settles O20: PBUF byte by byte after the loop; CBUF and RBUF are not written. -/
theorem encRunBuildsWirePacket : Obligations.EncRunBuildsWirePacket := by
  intro s hl
  obtain ⟨-, -, -, -, hn⟩ := (legalOperands_iff _ _ _ _ _).1 hl
  exact ⟨_, exec_encRun_of_legalOperands hl, encOutput_packetBytes? s hn,
    fun i hi => (read?_encOutput s hn i).trans (if_neg hi.not_gt), fun _ => rfl, fun _ => rfl⟩

/-- A legal payload has at most 16 chunks (R109). -/
theorem numChunks_le (n : Nat) (h : n ≤ 2047) : numChunks n ≤ 16 := by
  simp only [numChunks, Config.chunkMax]
  omega

/-- Settles O21: the formula, its maximum, and R113's table by evaluation. -/
theorem packetLengths : Obligations.PacketLengths :=
  ⟨packet_length, fun n h => ⟨packetLen_le n h, numChunks_le n h⟩, by decide⟩

end Sys2Proof.Machine

/-! PROOFS. O28, O29, O32 and O33, the reading commands of the decoder (43_decoder.md R137 to R140): one lemma for each
outcome, and the numbers a read leaves in the registers. -/

namespace Sys2Proof.Machine

section Outcomes

variable {s : State} {n w : Nat} (signed : Bool) (order : ByteOrder)

/-! DEC.INT (R137). -/

theorem exec_decInt_of_too_wide (hn : s.params.intMaxBytes < n) :
    exec (.decInt signed order n) s = .next (s.raise true .badOperand .numBytes n 0 s.params.intMaxBytes) :=
  if_pos hn

theorem exec_decInt_of_closed (hn : n ≤ s.params.intMaxBytes) (hd : s.dopen = false) :
    exec (.decInt signed order n) s = .next (s.raise true .noTransaction .dopen 0 1 1) :=
  (if_neg hn.not_gt).trans (if_pos hd)

theorem exec_decInt_of_le_remaining (hn : n ≤ s.params.intMaxBytes) (hd : s.dopen = true) (hr : n ≤ s.remaining) :
    exec (.decInt signed order n) s =
      .next ((s.readInt signed order n).noteRead .rbuf s.argIndex.toNat n).complete := by
  simp [exec, execDecInt, hn.not_gt, hd, hr.not_gt]

/-! DEC.ASCII (R140). -/

theorem exec_decAscii_of_bad_width (h3 : w ≠ 3) (h4 : w ≠ 4) :
    exec (.decAscii w) s = .next (s.raise true .badOperand .numArgBytes w 3 4) :=
  if_pos ⟨h3, h4⟩

theorem exec_decAscii_of_closed (hw : w = 3 ∨ w = 4) (hd : s.dopen = false) :
    exec (.decAscii w) s = .next (s.raise true .noTransaction .dopen 0 1 1) :=
  (if_neg (by omega)).trans (if_pos hd)

/-- The descriptor is read, and the string does not lie in the response: the cursor has moved. -/
theorem exec_decAscii_of_beyond (hw : w = 3 ∨ w = 4) (hd : s.dopen = true) (hr : w ≤ s.remaining)
    (hb : s.respLen.toNat < s.descOffset + s.descLength w) :
    exec (.decAscii w) s = .next ((s.afterDescriptor w).raise true .outOfBounds .offsetPlusLength
      (s.descOffset + s.descLength w) 0 s.respLen.toNat) := by
  have hlegal : ¬(w ≠ 3 ∧ w ≠ 4) := by omega
  simp only [exec, execDecAscii, hlegal, hd, hr.not_gt, hb, if_false, if_true, Bool.true_eq_false,
    State.raiseCommand_eq]

theorem exec_decAscii_of_fits (hw : w = 3 ∨ w = 4) (hd : s.dopen = true) (hr : w ≤ s.remaining)
    (hb : s.descOffset + s.descLength w ≤ s.respLen.toNat) :
    exec (.decAscii w) s = .next ({ s.afterDescriptor w with
      strOff := BitVec.ofNat 16 s.descOffset, strLen := BitVec.ofNat 16 (s.descLength w) } : State).complete := by
  have hlegal : ¬(w ≠ 3 ∧ w ≠ 4) := by omega
  simp only [exec, execDecAscii, hlegal, hd, hr.not_gt, hb.not_gt, if_false, Bool.true_eq_false]

/-! The cursor over bytes that remain (R40). -/

theorem le_remaining (h : s.argIndex.toNat + n ≤ s.respLen.toNat) : n ≤ s.remaining := by
  rw [State.remaining]
  omega

/-- The cursor does not wrap inside the response. -/
theorem advance_argIndex_toNat (h : s.argIndex.toNat + n ≤ s.respLen.toNat) :
    (s.advance n).argIndex.toNat = s.argIndex.toNat + n :=
  Nat.mod_eq_of_lt (h.trans_lt s.respLen.isLt)

end Outcomes

/-- Settles O28: the outcome of each check when those before it pass. -/
theorem decIntFaultsInOrder : Obligations.DecIntFaultsInOrder := fun _ signed order _ =>
  ⟨exec_decInt_of_too_wide signed order, exec_decInt_of_closed signed order,
    exec_decInt_of_remaining_lt signed order⟩

/-- The integer DEC.INT reads fits its N bytes (R138). -/
theorem intOf_memRead_lt (s : State) (order : ByteOrder) (b : BufferId) (i n : Nat) :
    intOf order (s.memRead b i n) < 2 ^ (8 * n) := by
  have h := intOf_lt order (s.memRead b i n)
  rwa [memRead_length, pow_256] at h

/-- RESULT's container holds the image whole: 8·INT_MAX_BYTES is at most 504 (R8, log 9). -/
theorem readInt_result_toNat {s : State} {n : Nat} (signed : Bool) (order : ByteOrder) (hp : s.params.wf)
    (hn : n ≤ s.params.intMaxBytes) :
    (s.readInt signed order n).result.toNat =
      resultImage s.params.intMaxBytes signed (intOf order (s.memRead .rbuf s.argIndex.toNat n)) n := by
  obtain ⟨-, -, -, hmax, -⟩ := hp
  have hwidth : 8 * s.params.intMaxBytes ≤ 504 := by omega
  have himage := resultImage_lt signed hn (intOf_memRead_lt s order .rbuf s.argIndex.toNat n)
  rw [State.readInt_result, BitVec.toNat_ofNat,
    Nat.mod_eq_of_lt (himage.trans_le (Nat.pow_le_pow_right Nat.two_pos hwidth))]

/-- Settles O29: RESULT is the image of the integer read, whose value R139's statement gives. -/
theorem decIntReadsInteger : Obligations.DecIntReadsInteger := by
  intro s signed order n hp hn hd hr
  have hu := intOf_memRead_lt s order .rbuf s.argIndex.toNat n
  have hresult := readInt_result_toNat signed order hp hn
  obtain ⟨-, -, hvalue, -⟩ := signedImageSignExtends.1 s.params.intMaxBytes _ n hn hu
  refine ⟨_, intOf order (s.memRead .rbuf s.argIndex.toNat n),
    exec_decInt_of_le_remaining signed order hn hd (le_remaining hr), by cases order <;> rfl, rfl,
    advance_argIndex_toNat hr, hresult.trans_lt (resultImage_lt signed hn hu), ?unsigned, ?signed⟩
  case unsigned =>
    rintro rfl
    exact hresult
  case signed =>
    rintro rfl
    exact (congrArg (fun r => (BitVec.ofNat (8 * s.params.intMaxBytes) r).toInt) hresult).trans hvalue

/-- Settles O32: the outcome of each check when those before it pass; the last one is made with the descriptor read. -/
theorem decAsciiFaultsInOrder : Obligations.DecAsciiFaultsInOrder := fun _ _ =>
  ⟨exec_decAscii_of_bad_width, exec_decAscii_of_closed, exec_decAscii_of_remaining_lt,
    fun hw hd hr => exec_decAscii_of_beyond hw hd (le_remaining hr)⟩

/-! The descriptor byte by byte (R83). -/

theorem descOffset_eq (s : State) :
    s.descOffset = (s.byteAt .rbuf s.argIndex.toNat).toNat * 256 + (s.byteAt .rbuf (s.argIndex.toNat + 1)).toNat := by
  simp [State.descOffset, State.memRead, List.range_succ, be]

theorem descLength_three (s : State) : s.descLength 3 = (s.byteAt .rbuf (s.argIndex.toNat + 2)).toNat := by
  simp [State.descLength, State.memRead, be]

theorem descLength_four (s : State) :
    s.descLength 4 = (s.byteAt .rbuf (s.argIndex.toNat + 2)).toNat * 256 +
      (s.byteAt .rbuf (s.argIndex.toNat + 3)).toNat := by
  simp [State.descLength, State.memRead, List.range_succ, be]

/-- Settles O33: the descriptor's two numbers, which fit their registers. -/
theorem decAsciiReadsDescriptor : Obligations.DecAsciiReadsDescriptor := by
  intro s w off len hw hd hr hoff hlen hfits
  have hoff : s.descOffset = off := (descOffset_eq s).trans hoff.symm
  have hlen : s.descLength w = len := by
    rcases hw with rfl | rfl
    · exact (descLength_three s).trans hlen.symm
    · exact (descLength_four s).trans hlen.symm
  subst hoff hlen
  exact ⟨_, exec_decAscii_of_fits hw hd (le_remaining hr) hfits, rfl,
    Nat.mod_eq_of_lt (descOffset_lt s), Nat.mod_eq_of_lt (descLength_lt s w hw), advance_argIndex_toNat hr⟩

end Sys2Proof.Machine

/-! PROOFS. O36, O39 and O40, the host port's reads of registers and its refusals (10_state.md R36, R38, 20_memory.md R51,
R54): which numbers are readable and writable registers, and which accesses have no element. -/

namespace Sys2Proof.Machine

/-! The registers by their access right (R38). -/

/-- Every register but CMD. -/
def Reg.readable : List Reg := Reg.all.filter fun r => r.access ≠ .writeOnly

/-- The registers that a host write can change. -/
def Reg.writable : List Reg := Reg.all.filter fun r => r.access = .readWrite

theorem Reg.mem_all (r : Reg) : r ∈ Reg.all := by
  cases r <;> decide

theorem Reg.mem_readable {r : Reg} : r ∈ Reg.readable ↔ r.access ≠ .writeOnly := by
  simp [Reg.readable, Reg.mem_all]

theorem Reg.mem_writable {r : Reg} : r ∈ Reg.writable ↔ r.access = .readWrite := by
  simp [Reg.writable, Reg.mem_all]

/-- STATUS as a number (R36). -/
theorem status_toNat (s : State) :
    s.status.toNat = s.z.toNat + 2 * s.dopen.toNat + 4 * s.fail.toNat + 8 * s.eany.toNat := by
  rw [State.status]
  cases s.z <;> cases s.dopen <;> cases s.fail <;> cases s.eany <;> rfl

/-- Settles O36: the list pairs the number of each readable register with its value. -/
theorem registerReads : Obligations.RegisterReads := by
  intro s rest c hc hq
  rw [← status_toNat] at hc
  have hc : c ∈ Reg.readable.map fun r => (r.number, s.readReg r) := hc
  obtain ⟨r, hr, rfl⟩ := List.mem_map.1 hc
  exact step_read_reg (Reg.mem_readable.1 hr) hq

section Refused

variable {s : State} {sp idx v : Nat}

/-! Accesses without an element (R54). -/

/-- A number that no readable register has. -/
theorem readRegSpace_eq_none (h : idx ∉ Reg.readable.map Reg.number) : s.readRegSpace idx = none := by
  rw [State.readRegSpace]
  cases hr : Reg.ofNumber idx with
  | none => rfl
  | some r =>
    refine if_pos (Decidable.not_not.1 fun hread => h ?_)
    rw [← number_of_ofNumber hr]
    exact List.mem_map_of_mem (Reg.mem_readable.2 hread)

/-- A number that no writable register has, or a value wider than 16 bits (log 7). -/
theorem writeRegSpace_eq_none (h : idx ∉ Reg.writable.map Reg.number ∨ 2 ^ 16 ≤ v) :
    s.writeRegSpace idx v = none := by
  rw [State.writeRegSpace]
  cases hr : Reg.ofNumber idx with
  | none => rfl
  | some r =>
    refine if_neg fun ⟨hwrite, hv⟩ => h.elim (fun hnum => hnum ?_) hv.not_ge
    rw [← number_of_ofNumber hr]
    exact List.mem_map_of_mem (Reg.mem_writable.2 hwrite)

/-- No space has an id above 4. -/
theorem readElement_eq_none_of_space (h : 4 < sp) : s.readElement sp idx = none := by
  match sp with
  | _ + 5 => rfl

theorem writeElement_eq_none_of_space (h : 4 < sp) : s.writeElement sp idx v = none := by
  match sp with
  | _ + 5 => rfl

/-! The steps that refuse an access (R54). -/

variable {rest : List HostEvent} {space index : Word}

theorem step_read_refused (hq : s.queue = .read space index :: rest)
    (hv : ({ s with queue := rest } : State).readElement space.toNat index.toNat = none) :
    step s = .next { ({ s with queue := rest } : State).badAccess space index with answer := some 0 } := by
  rw [step_read hq, State.hostRead, hv]

theorem step_write_refused (hq : s.queue = .write space index v :: rest)
    (hc : ¬(space.toNat = 0 ∧ index.toNat = 0 ∧ v < 2 ^ 16))
    (hv : ({ s with queue := rest } : State).writeElement space.toNat index.toNat v = none) :
    step s = .next { ({ s with queue := rest } : State).badAccess space index with answer := none } := by
  rw [step_write hq hc, State.hostWrite, hv]

end Refused

/-- Settles O39: each clause names an access that has no element. -/
theorem illegalAccessesFault : Obligations.IllegalAccessesFault := by
  intro s rest sp idx v
  refine ⟨fun h hq => step_read_refused hq ?read, fun h hq => step_write_refused hq ?noCommand ?write⟩
  case read =>
    rcases h with h | ⟨rfl, h⟩ | rfl | rfl | ⟨rfl, h⟩ | ⟨rfl, h⟩
    · exact readElement_eq_none_of_space h
    · exact readRegSpace_eq_none h
    · rfl
    · rfl
    · exact if_neg h.not_gt
    · exact if_neg fun ⟨hd, hi⟩ => h.elim (Bool.eq_false_iff.1 · hd) hi.not_ge
  case noCommand =>
    rintro ⟨hsp, hidx, -⟩
    have hsp : sp = 0 := BitVec.eq_of_toNat_eq hsp
    simp [hsp, hidx] at h
  case write =>
    rcases h with h | ⟨rfl, h⟩ | rfl | rfl | ⟨rfl, h⟩ | ⟨rfl, h⟩
    · exact writeElement_eq_none_of_space h
    · exact writeRegSpace_eq_none (.inl (List.not_mem_of_not_mem_cons h))
    · rfl
    · rfl
    · exact if_neg fun ⟨hi, _⟩ => hi.not_ge h
    · exact if_neg fun ⟨hi, _⟩ => hi.not_ge h

/-- Settles O40: no element takes such a value. -/
theorem tooWideValuesFault : Obligations.TooWideValuesFault := by
  intro s rest sp idx v h hq
  refine step_write_refused hq ?noCommand ?write
  case noCommand =>
    rintro ⟨hsp, -, hv⟩
    have hsp : sp = 0 := BitVec.eq_of_toNat_eq hsp
    rcases h with ⟨-, hwide⟩ | ⟨hsp' | hsp', -⟩
    · exact hv.not_ge hwide
    · simp [hsp] at hsp'
    · simp [hsp] at hsp'
  case write =>
    rcases h with ⟨rfl, hwide⟩ | ⟨rfl | rfl, hwide⟩
    · exact writeRegSpace_eq_none (.inr hwide)
    · exact if_neg fun ⟨_, hv⟩ => hv.not_ge hwide
    · exact if_neg fun ⟨_, hv⟩ => hv.not_ge hwide

end Sys2Proof.Machine

/-! PROOFS. O50 to O52, the state after reset (10_state.md R38, 70_reset_and_hazards.md R195 to R198). -/

namespace Sys2Proof.Machine

/-- What the registers of `Reg.readable` read as after reset: the sums cancel, so Z is 1 and both check bytes are
0xFF. -/
theorem readReg_reset : Reg.readable.map (fun r => (r.number, State.reset.readReg r)) =
    [(0x01, 0x0001), (0x02, 0), (0x03, 0), (0x04, 0xFF), (0x05, 0xFF), (0x08, 0), (0x09, 0), (0x0A, 0),
      (0x0B, 0), (0x0C, 0), (0x0D, 0), (0x10, 0), (0x11, 0), (0x12, 0), (0x13, 0), (0x14, 0), (0x18, 0), (0x19, 0),
      (0x1A, 0), (0x1B, 0), (0x1C, 0)] := by
  decide +kernel

/-- Settles O50: a read of each readable register, and three empty buffers. -/
theorem resetRegisterValues : Obligations.ResetRegisterValues := by
  refine ⟨fun sp idx v hv hsp => ?read, fun b i => by cases b <;> rfl⟩
  case read =>
    subst hsp
    rw [← readReg_reset] at hv
    obtain ⟨r, hr, heq⟩ := List.mem_map.1 hv
    obtain ⟨hnum, rfl⟩ := Prod.mk.inj heq
    have hidx : idx = BitVec.ofNat 16 r.number := by rw [hnum, BitVec.ofNat_toNat, BitVec.setWidth_eq]
    subst hidx
    have hkept (e : HostEvent) : (State.reset.prepend e).readReg r = State.reset.readReg r := by cases r <;> rfl
    rw [← hkept (.read 0 (BitVec.ofNat 16 r.number))]
    exact step_read_reg (Reg.mem_readable.1 hr) rfl

/-- Settles O51: the reset event, whatever the state. -/
theorem resetEventClearsEngine : Obligations.ResetEventClearsEngine := fun _ _ hq => step_reset hq

/-- Settles O52: one step of the machine, evaluated. -/
theorem encRunStraightAfterReset : Obligations.EncRunStraightAfterReset := ⟨_, rfl, rfl, by decide⟩

end Sys2Proof.Machine

/-! PROOFS. O44, O45, O48 and O49, the frame of the commands (20_memory.md R66, 41_framer.md R110, R111, 44_system.md R162,
60_exceptions.md R170): what each of the ways a command can end leaves as it was. -/

namespace Sys2Proof.Machine

/-- Settles O44: a fault raised on the state itself, or OutOfBounds after the descriptor; the other ways of ending leave
FAIL = 0. -/
theorem commandFaultsArePrecise : Obligations.CommandFaultsArePrecise := by
  intro i s t h hfail
  cases exec_ended h with
  | faulted => exact ⟨rfl, .inl ⟨rfl, rfl⟩⟩
  | outOfBounds w => exact ⟨rfl, .inr ⟨w, rfl, rfl, rfl⟩⟩
  | cleared | started | absorbed | built | opened | readInteger | readString => cases hfail

/-- Settles O45: the ways of ending that leave FAIL = 0 keep the record, but for SYS.CLRERR's. -/
theorem completedCommandsKeepRecord : Obligations.CompletedCommandsKeepRecord := by
  intro i s t h hfail hi
  cases exec_ended h with
  | faulted | outOfBounds => cases hfail
  | cleared => exact absurd rfl hi
  | started | absorbed | built | opened | readInteger | readString => exact ⟨rfl, rfl, rfl, rfl, rfl, rfl⟩

/-- Settles O48: a fault changes no register outside the record but the cursor, and each effect its unit's own. -/
theorem unitsWriteOnlyTheirOwn : Obligations.UnitsWriteOnlyTheirOwn := by
  rintro i s t t' h rfl
  cases exec_ended h with
  | faulted => cases i <;> rfl
  | cleared | started | absorbed | built | opened | readInteger | outOfBounds | readString => rfl

/-- A byte read depends on its buffer and the draw number of the free bytes only. -/
theorem byteAt_congr {s t : State} {b : BufferId} (hb : t.buffer b = s.buffer b) (hr : t.resets = s.resets) (a : Nat) :
    t.byteAt b a = s.byteAt b a := by
  rw [State.byteAt, State.byteAt, hb, hr]

/-- Every way of ending but ENC.RUN's completion writes no buffer; that one writes PBUF. -/
theorem Ended.buffer {s t : State} {i : Instr} (e : Ended s i t) (b : BufferId)
    (h : i ≠ .encRun ∨ b ≠ .pbuf ∨ t.fail = true) : t.buffer b = s.buffer b := by
  cases e with
  | built =>
    cases b with
    | pbuf => simp at h
    | cbuf | rbuf => rfl
  | faulted | cleared | started | absorbed | opened | readInteger | outOfBounds | readString => cases b <;> rfl

/-- No way of ending draws the free bytes anew. -/
theorem Ended.resets {s t : State} {i : Instr} (e : Ended s i t) : t.resets = s.resets := by
  cases e <;> rfl

/-- Beyond the packet's length, ENC.RUN leaves every byte of PBUF. -/
theorem Ended.byteAt_beyond {s t : State} (e : Ended s .encRun t) {a : Nat} (h : packetLen s.cmdSize.toNat ≤ a) :
    t.byteAt .pbuf a = s.byteAt .pbuf a := by
  cases e with
  | faulted => rfl
  | built hl =>
    obtain ⟨-, -, -, -, hn⟩ := (legalOperands_iff _ _ _ _ _).1 hl
    exact congrArg (Option.getD · _) ((read?_encOutput s hn a).trans (if_neg h.not_gt))

/-- Settles O49: the buffers that are not written, and the bytes of PBUF beyond the packet. -/
theorem commandsKeepEveryOtherByte : Obligations.CommandsKeepEveryOtherByte := by
  intro i s t h b a hkept
  have e := exec_ended h
  by_cases hbuf : i ≠ .encRun ∨ b ≠ .pbuf ∨ t.fail = true
  · exact byteAt_congr (e.buffer b hbuf) e.resets a
  · obtain ⟨hi, hb, hfail⟩ : i = .encRun ∧ b = .pbuf ∧ ¬t.fail = true := by simpa [not_or] using hbuf
    subst hi hb
    exact e.byteAt_beyond (by simpa [hfail] using hkept)

end Sys2Proof.Machine

/-! PROOFS. O35, O46, O47 and O57, what a step leaves as it was (10_state.md R21, R31, R34, R43): a step is a reset, a
command, or something else that changes little. -/

namespace Sys2Proof.Machine

/-- What every host event but a reset and a command keeps: the sums, the parameters, the packet and, while a transaction
is open, the response. EANY it can only set. -/
structure Kept (s t : State) : Prop where
  lower : t.lower = s.lower
  upper : t.upper = s.upper
  params : t.params = s.params
  pbuf : t.pbuf = s.pbuf
  pktLen : t.pktLen = s.pktLen
  eany : s.eany = true → t.eany = true
  response : t.dopen = true → s.dopen = true ∧ t.rbuf = s.rbuf ∧ t.respLen = s.respLen

theorem Kept.refl (s : State) : Kept s s := ⟨rfl, rfl, rfl, rfl, rfl, id, fun hd => ⟨hd, rfl, rfl⟩⟩

/-- A fault of a host access (R54): the record, and EANY set. -/
theorem Kept.raise (s : State) (c : Bool) (k : Cause) (f : ErrField) (v lo hi : Nat) : Kept s (s.raise c k f v lo hi) :=
  { Kept.refl s with eany := fun _ => rfl }

theorem Kept.hostRead (s : State) (sp idx : Word) :
    Kept s (s.hostRead sp idx) ∧ (s.hostRead sp idx).fail = s.fail := by
  rcases hostRead_cases s sp idx with ⟨v, -, e⟩ | ⟨-, e⟩ <;> rw [e]
  · rw [noteElementRead_eq]
    exact ⟨{ Kept.refl s with }, rfl⟩
  · exact ⟨{ Kept.raise s false .badAccess .hostAccess (sp.toNat * 65536 + idx.toNat) 0 0 with }, rfl⟩

/-- A register write: RESP_LEN closes the transaction, the others leave the response. -/
theorem Kept.writeReg (s : State) (r : Reg) (v : Word) : Kept s (s.writeReg r v) ∧ (s.writeReg r v).fail = s.fail := by
  cases r with
  | respLen => exact ⟨{ Kept.refl s with response := nofun }, rfl⟩
  | _ => exact ⟨{ Kept.refl s with }, rfl⟩

theorem Kept.hostWrite (s : State) (sp idx : Word) (v : Nat) :
    Kept s (s.hostWrite sp idx v) ∧ (s.hostWrite sp idx v).fail = s.fail := by
  rcases hostWrite_cases s sp idx v with ⟨r, -, -, -, -, e⟩ | ⟨-, -, -, e⟩ | ⟨-, -, -, e⟩ | e <;> rw [e]
  · obtain ⟨hk, hf⟩ := Kept.writeReg s r (BitVec.ofNat 16 v)
    exact ⟨{ hk with }, hf⟩
  · exact ⟨{ Kept.refl s with }, rfl⟩
  · exact ⟨{ Kept.refl s with response := nofun }, rfl⟩
  · exact ⟨{ Kept.raise s false .badAccess .hostAccess (sp.toNat * 65536 + idx.toNat) 0 0 with }, rfl⟩

/-- A step is a reset, a command of a legal word, or keeps all that `Kept` names, and FAIL too but for an illegal
word. -/
theorem step_kinds {s t : State} (h : step s = .next t) :
    (∃ rest, s.queue = .reset :: rest ∧ t = ({ s with queue := rest } : State).hostReset) ∨
    (∃ (w : Word) (i : Instr) (rest : List HostEvent), s.queue = .write 0 0 w.toNat :: rest ∧ decode w = .ok i ∧
      Ended { s with queue := rest, answer := none } i t) ∨
    (Kept s t ∧ (t.fail = s.fail ∨ ∃ v rest, s.queue = .write 0 0 v :: rest)) := by
  rcases step_cases h with ⟨-, rfl⟩ | hreset | ⟨sp, idx, rest, -, rfl⟩ | ⟨w, i, rest, hq, hd, hx⟩ |
    ⟨w, d, rest, hq, -, rfl⟩ | ⟨sp, idx, v, rest, -, rfl⟩
  · exact .inr (.inr ⟨Kept.refl _, .inl rfl⟩)
  · exact .inl hreset
  · obtain ⟨hk, hf⟩ := Kept.hostRead { s with queue := rest } sp idx
    exact .inr (.inr ⟨{ hk with }, .inl hf⟩)
  · exact .inr (.inl ⟨w, i, rest, hq, hd, exec_ended hx⟩)
  · exact .inr (.inr ⟨{ Kept.raise s true .illegalCommand .opcode w.toNat 0 0 with }, .inr ⟨_, rest, hq⟩⟩)
  · obtain ⟨hk, hf⟩ := Kept.hostWrite { s with queue := rest } sp idx v
    exact .inr (.inr ⟨{ hk with }, .inl hf⟩)

/-- The word of a command that decodes is its encoding, as a number. -/
theorem toNat_of_decode {w : Word} {i : Instr} (h : decode w = .ok i) : w.toNat = (encode i).toNat := by
  rw [(encodeDecodeRoundTrip w i h).2]

/-! What the commands keep, way of ending by way of ending. -/

section Commands

variable {s t : State} {i : Instr} (e : Ended s i t)

include e

theorem Ended.params : t.params = s.params := by
  cases e <;> rfl

/-- No command writes the response (R31). -/
theorem Ended.response : t.rbuf = s.rbuf ∧ t.respLen = s.respLen := by
  cases e <;> exact ⟨rfl, rfl⟩

/-- Only DEC.BEGIN opens a transaction (R31). -/
theorem Ended.dopen_before (h : t.dopen = true) : s.dopen = true ∨ i = .decBegin := by
  cases e with
  | opened => exact .inr rfl
  | faulted | cleared | started | absorbed | built | readInteger | outOfBounds | readString => exact .inl h

/-- Only SYS.CLRERR clears EANY (R34). -/
theorem Ended.eany_after (h : s.eany = true) : t.eany = true ∨ i = .sysClrErr := by
  cases e with
  | cleared => exact .inr rfl
  | faulted | outOfBounds => exact .inl rfl
  | started | absorbed | built | opened | readInteger | readString => exact .inl h

/-- Only FL.INIT and FL.ABSORB write the sums (R21). -/
theorem Ended.sums : (t.lower = s.lower ∧ t.upper = s.upper) ∨ i = .flInit ∨ ∃ b, i = .flAbsorb b := by
  cases e with
  | started => exact .inr (.inl rfl)
  | absorbed b => exact .inr (.inr ⟨b, rfl⟩)
  | faulted | cleared | built | opened | readInteger | outOfBounds | readString => exact .inl ⟨rfl, rfl⟩

end Commands

/-- Settles O35: a reset closes the transaction, a command keeps the response, a host write of it closes the
transaction. -/
theorem openResponseIsImmutable : Obligations.OpenResponseIsImmutable := by
  intro s t h hopen
  rcases step_kinds h with ⟨rest, -, rfl⟩ | ⟨w, i, rest, hq, hd, e⟩ | ⟨hk, -⟩
  · cases hopen
  · obtain ⟨hbuf, hlen⟩ := e.response
    refine ⟨hbuf, hlen, (e.dopen_before hopen).imp_right ?_⟩
    rintro rfl
    exact ⟨rest, hq.trans (by rw [toNat_of_decode hd]; rfl)⟩
  · obtain ⟨hbefore, hbuf, hlen⟩ := hk.response hopen
    exact ⟨hbuf, hlen, .inl hbefore⟩

/-- Settles O46: a command or an illegal word is a CMD write, and only SYS.CLRERR's word makes a command clear EANY. -/
theorem faultFlagsChangeOnlySo : Obligations.FaultFlagsChangeOnlySo := by
  intro s t h
  rcases step_kinds h with ⟨rest, hq, -⟩ | ⟨w, i, rest, hq, hd, e⟩ | ⟨hk, hfail⟩
  · exact ⟨fun _ => .inr ⟨rest, hq⟩, fun _ _ => .inr ⟨rest, hq⟩⟩
  · refine ⟨fun _ => .inl ⟨_, rest, hq⟩, fun hs ht => .inl ⟨rest, ?_⟩⟩
    obtain hset | rfl := e.eany_after hs
    · exact absurd hset (Bool.eq_false_iff.1 ht)
    · rw [hq, toNat_of_decode hd]
      rfl
  · exact ⟨fun hne => .inl (hfail.resolve_left hne), fun hs ht => absurd (hk.eany hs) (Bool.eq_false_iff.1 ht)⟩

/-- Settles O47: a command that writes the sums is one of the two. -/
theorem sumsWrittenOnlyByChecksumUnit : Obligations.SumsWrittenOnlyByChecksumUnit := by
  intro s t h hne
  rcases step_kinds h with ⟨rest, hq, -⟩ | ⟨w, i, rest, hq, hd, e⟩ | ⟨hk, -⟩
  · exact .inr ⟨rest, hq⟩
  · refine .inl ⟨w, rest, hq, ?_⟩
    rcases e.sums with ⟨hl, hu⟩ | rfl | ⟨b, rfl⟩
    · exact absurd hne (not_or.2 ⟨not_not.2 hl, not_not.2 hu⟩)
    · exact .inl hd
    · exact .inr ⟨b, hd⟩
  · exact absurd hne (not_or.2 ⟨not_not.2 hk.lower, not_not.2 hk.upper⟩)

/-- Settles O57: a reset keeps the parameters, and so does everything else. -/
theorem parametersNeverChange : Obligations.ParametersNeverChange := by
  intro s t h
  rcases step_kinds h with ⟨rest, -, rfl⟩ | ⟨w, i, rest, -, -, e⟩ | ⟨hk, -⟩
  · rfl
  · exact e.params
  · exact hk.params

end Sys2Proof.Machine

/-! PROOFS. O53, O55 and O56, the state after reset meets both invariants, and every step keeps the model's own: as for
R42, each operation of the engine keeps it. -/

namespace Sys2Proof.Machine

/-- Settles O53: everything is 0 and nothing is open. -/
theorem resetMeetsInvariants : Obligations.ResetMeetsInvariants := inv_reset

/-- Nothing is stored, nothing is recorded, and RESULT is 0. -/
theorem dataInv_hostReset {s : State} (hp : s.params.wf) : DataInv s.hostReset where
  params_wf := hp
  cbuf_wf := List.Pairwise.nil
  pbuf_wf := List.Pairwise.nil
  rbuf_wf := List.Pairwise.nil
  cbuf_within := nofun
  pbuf_within := nofun
  rbuf_within := nofun
  result_width := BitVec.toNat_zero.trans_lt (Nat.two_pow_pos _)
  errCode_legal := List.mem_cons_self
  errField_legal := List.mem_cons_self

/-- Settles O55: the parameters of log 2 are R8's, and the rest is as after any reset. -/
theorem resetMeetsDataInvariant : Obligations.ResetMeetsDataInvariant :=
  { dataInv_hostReset (s := State.reset) (by decide) with }

theorem Cause.code_mem (k : Cause) : k.code ∈ errCodes := by
  cases k <;> decide

theorem ErrField.code_mem (f : ErrField) : f.code ∈ errFields := by
  cases f <;> decide

section Operations

variable {s : State} (h : DataInv s)

include h

/-- The pending events and the answer are in no clause. -/
theorem DataInv.setPort (rest : List HostEvent) (a : Option Nat) : DataInv { s with queue := rest, answer := a } :=
  { h with }

/-- A fault records codes of R171 and R172. -/
theorem DataInv.raise (c : Bool) (k : Cause) (f : ErrField) (v lo hi : Nat) : DataInv (s.raise c k f v lo hi) :=
  { h with
    errCode_legal := k.code_mem
    errField_legal := f.code_mem }

theorem DataInv.clearRecord : DataInv s.clearRecord :=
  { h with
    errCode_legal := List.mem_cons_self
    errField_legal := List.mem_cons_self }

/-- The header and the body of a legal packet lie inside PBUF (R27). -/
theorem DataInv.encOutput
    (hl : legalOperands s.address.toNat s.port.toNat s.token.toNat s.respExp s.cmdSize.toNat = true) :
    DataInv s.encOutput := by
  obtain ⟨-, -, -, -, hn⟩ := (legalOperands_iff _ _ _ _ _).1 hl
  exact { h with
    pbuf_wf := wf_encBody s _ _ _ (Memory.wf_write h.pbuf_wf _ _)
    pbuf_within := within_encBody s _ _ _ _ (Memory.within_write h.pbuf_within _ _ (by simp)) (packetLen_le _ hn) }

theorem DataInv.openTransaction : DataInv s.openTransaction :=
  { h with result_width := BitVec.toNat_zero.trans_lt (Nat.two_pow_pos _) }

/-- The integer DEC.INT leaves fits RESULT (R32, R139). -/
theorem DataInv.readInt (signed : Bool) (order : ByteOrder) {n : Nat} (hn : n ≤ s.params.intMaxBytes) :
    DataInv (s.readInt signed order n) :=
  { h with
    result_width := (readInt_result_toNat signed order h.params_wf hn).trans_lt
      (resultImage_lt signed hn (intOf_memRead_lt s order .rbuf s.argIndex.toNat n)) }

theorem DataInv.writeReg (r : Reg) (v : Word) : DataInv (s.writeReg r v) := by
  cases r <;> exact { h with }

/-! Commands, host accesses and steps. -/

/-- Every command keeps it, whether it completes or faults. -/
theorem DataInv.ended {i : Instr} {t : State} (e : Ended s i t) : DataInv t := by
  cases e with
  | faulted k f v lo hi => exact h.raise true k f v lo hi
  | cleared => exact { h.clearRecord with }
  | started | absorbed | readString => exact { h with }
  | built hl => exact { h.encOutput hl with }
  | opened => exact { h.openTransaction with }
  | readInteger signed order n hn => exact { h.readInt signed order hn with }
  | outOfBounds w => exact { h.raise true .outOfBounds .offsetPlusLength 0 0 0 with }

theorem DataInv.hostRead (sp idx : Word) : DataInv (s.hostRead sp idx) := by
  rcases hostRead_cases s sp idx with ⟨v, -, e⟩ | ⟨-, e⟩ <;> rw [e]
  · rw [noteElementRead_eq]
    exact { h with }
  · exact { h.raise false .badAccess .hostAccess (sp.toNat * 65536 + idx.toNat) 0 0 with }

/-- A byte is written inside its buffer's capacity only (R52). -/
theorem DataInv.hostWrite (sp idx : Word) (v : Nat) : DataInv (s.hostWrite sp idx v) := by
  rcases hostWrite_cases s sp idx v with ⟨r, -, -, -, -, e⟩ | ⟨-, hi, -, e⟩ | ⟨-, hi, -, e⟩ | e <;> rw [e]
  · exact { h.writeReg r (BitVec.ofNat 16 v) with }
  · exact { h with
      cbuf_wf := Memory.wf_write h.cbuf_wf _ _
      cbuf_within := Memory.within_write h.cbuf_within _ _ hi }
  · exact { h with
      rbuf_wf := Memory.wf_write h.rbuf_wf _ _
      rbuf_within := Memory.within_write h.rbuf_within _ _ hi }
  · exact { h.raise false .badAccess .hostAccess (sp.toNat * 65536 + idx.toNat) 0 0 with }

/-- Each of the six kinds of step keeps it. -/
theorem DataInv.step {t : State} (e : step s = .next t) : DataInv t := by
  rcases step_cases e with ⟨-, rfl⟩ | ⟨rest, -, rfl⟩ | ⟨sp, idx, rest, -, rfl⟩ | ⟨w, i, rest, -, -, hx⟩ |
    ⟨w, d, rest, -, -, rfl⟩ | ⟨sp, idx, v, rest, -, rfl⟩
  · exact h
  · exact dataInv_hostReset h.params_wf
  · exact (h.setPort rest s.answer).hostRead sp idx
  · exact (h.setPort rest none).ended (exec_ended hx)
  · exact { h.raise true .illegalCommand .opcode w.toNat 0 0 with }
  · exact (h.setPort rest s.answer).hostWrite sp idx v

end Operations

/-- Settles O56: each of the six kinds of step keeps the invariant. -/
theorem stepKeepsDataInvariant : Obligations.StepKeepsDataInvariant := fun _ _ h => h.step

end Sys2Proof.Machine

/-! PROOFS. O42, the hidden bytes of PBUF (10_state.md R41, 20_memory.md R55): every operation but ENC.RUN and a reset
commutes with a change of them, and ENC.RUN writes every byte it brings below PKT_LEN. -/

namespace Sys2Proof.Machine

/-- The state with another PBUF. -/
def State.withPbuf (s : State) (m : Memory) : State := { s with pbuf := m }

/-- `m` agrees with the state's PBUF below PKT_LEN. -/
def AgreesBelow (s : State) (m : Memory) : Prop :=
  ∀ i, i < s.pktLen.toNat → Memory.read? m i = Memory.read? s.pbuf i

theorem sameButHidden_iff {s t : State} : SameButHidden s t ↔ ∃ m, t = s.withPbuf m ∧ AgreesBelow s m := by
  constructor
  · rintro ⟨ht, hm⟩
    exact ⟨t.pbuf, ht, hm⟩
  · rintro ⟨m, rfl, hm⟩
    exact ⟨rfl, hm⟩

theorem allWritten_one (s : State) (b : BufferId) (i : Nat) :
    s.allWritten b i 1 = (Memory.read? (s.buffer b) i).isSome := by
  simp [State.allWritten, List.range_one]

section Operations

variable {s : State} {m : Memory} (hm : AgreesBelow s m)

include hm

/-- The change of hidden bytes stays one of hidden bytes after whatever keeps the packet. -/
theorem AgreesBelow.sameButHidden {t : State} (hb : t.pbuf = s.pbuf) (hl : t.pktLen = s.pktLen) :
    SameButHidden t (t.withPbuf m) := by
  refine sameButHidden_iff.2 ⟨m, rfl, fun i hi => ?_⟩
  rw [hb]
  exact hm i (hl ▸ hi)

/-! Reads: a byte of PBUF is read below PKT_LEN only (R51). -/

theorem AgreesBelow.byteAt {i : Nat} (hi : i < s.pktLen.toNat) :
    (s.withPbuf m).byteAt .pbuf i = s.byteAt .pbuf i :=
  congrArg (Option.getD · _) (hm i hi)

theorem AgreesBelow.allWritten {i : Nat} (hi : i < s.pktLen.toNat) :
    (s.withPbuf m).allWritten .pbuf i 1 = s.allWritten .pbuf i 1 := by
  rw [allWritten_one, allWritten_one]
  exact congrArg Option.isSome (hm i hi)

theorem AgreesBelow.readElement (sp idx : Nat) :
    (s.withPbuf m).readElement sp idx = s.readElement sp idx := by
  match sp with
  | 0 =>
    simp only [State.readElement, State.readRegSpace]
    cases Reg.ofNumber idx with
    | none => rfl
    | some r => cases r <;> rfl
  | 2 =>
    by_cases hi : idx < s.pktLen.toNat
    · simp only [State.readElement, hm.byteAt hi]
      rfl
    · exact (if_neg hi).trans (if_neg hi).symm
  | 1 | 3 | 4 | _ + 5 => rfl

theorem AgreesBelow.noteElementRead {sp idx v : Nat} (hv : s.readElement sp idx = some v) :
    (s.withPbuf m).noteElementRead sp idx = (s.noteElementRead sp idx).withPbuf m := by
  match sp with
  | 2 =>
    have hi : idx < s.pktLen.toNat := by
      by_contra hi
      simp [State.readElement, hi] at hv
    simp only [State.noteElementRead, State.noteRead, hm.allWritten hi]
    rfl
  | 0 | 1 | 3 | 4 | _ + 5 => rfl

theorem AgreesBelow.hostRead (sp idx : Word) :
    SameButHidden (s.hostRead sp idx) ((s.withPbuf m).hostRead sp idx) := by
  have hread : (s.withPbuf m).hostRead sp idx = (s.hostRead sp idx).withPbuf m := by
    rw [State.hostRead, State.hostRead, hm.readElement]
    cases hv : s.readElement sp.toNat idx.toNat with
    | none => rfl
    | some v => simp only [hm.noteElementRead hv]; rfl
  obtain ⟨hk, -⟩ := Kept.hostRead s sp idx
  exact hread ▸ hm.sameButHidden hk.pbuf hk.pktLen

/-! Writes go to a register, CBUF or RBUF (R52). -/

omit hm in
theorem writeElement_withPbuf (sp idx v : Nat) :
    (s.withPbuf m).writeElement sp idx v = (s.writeElement sp idx v).map (·.withPbuf m) := by
  match sp with
  | 0 =>
    simp only [State.writeElement, State.writeRegSpace]
    cases Reg.ofNumber idx with
    | none => rfl
    | some r =>
      simp only [apply_ite (Option.map _)]
      cases r <;> rfl
  | 1 | 3 =>
    simp only [State.writeElement, apply_ite (Option.map _)]
    rfl
  | 2 | _ + 4 => rfl

theorem AgreesBelow.hostWrite (sp idx : Word) (v : Nat) :
    SameButHidden (s.hostWrite sp idx v) ((s.withPbuf m).hostWrite sp idx v) := by
  have hwrite : (s.withPbuf m).hostWrite sp idx v = (s.hostWrite sp idx v).withPbuf m := by
    rw [State.hostWrite, State.hostWrite, writeElement_withPbuf]
    cases s.writeElement sp.toNat idx.toNat v <;> rfl
  obtain ⟨hk, -⟩ := Kept.hostWrite s sp idx v
  exact hwrite ▸ hm.sameButHidden hk.pbuf hk.pktLen

/-! Commands. -/

omit hm in
/-- Below its PKT_LEN, ENC.RUN's PBUF is the packet, whatever PBUF was (R110). -/
theorem encOutput_agreesBelow (hn : s.cmdSize.toNat ≤ 2047) : AgreesBelow s.encOutput (s.withPbuf m).encOutput.pbuf := by
  intro i hi
  rw [encOutput_pktLen_toNat s hn] at hi
  exact ((read?_encOutput (s.withPbuf m) hn i).trans (if_pos hi)).trans
    ((read?_encOutput s hn i).trans (if_pos hi)).symm

/-- Every outcome of a command is that of the changed state. -/
theorem AgreesBelow.exec {i : Instr} {t : State} (h : exec i s = .next t) :
    ∃ u, exec i (s.withPbuf m) = .next u ∧ SameButHidden t u := by
  cases i with
  | sysClrErr | flInit | flAbsorb =>
    cases h
    exact ⟨_, rfl, hm.sameButHidden rfl rfl⟩
  | encRun =>
    rcases execEncRun_cases s with ⟨f, v, lo, hi, hf, e⟩ | ⟨hl, e⟩ <;> rw [h] at e <;> cases e
    · exact ⟨_, exec_encRun_of_encFault hf, hm.sameButHidden rfl rfl⟩
    · obtain ⟨-, -, -, -, hn⟩ := (legalOperands_iff _ _ _ _ _).1 hl
      have hout : (s.withPbuf m).encOutput = s.encOutput.withPbuf (s.withPbuf m).encOutput.pbuf := rfl
      refine ⟨_, exec_encRun_of_legalOperands (s := s.withPbuf m) hl, ?_⟩
      rw [hout]
      exact (encOutput_agreesBelow hn).sameButHidden rfl rfl
  | decBegin =>
    rcases execDecBegin_cases s with ⟨hr, e⟩ | ⟨hr, e⟩ <;> rw [h] at e <;> cases e
    · exact ⟨_, exec_decBegin_of_too_long hr, hm.sameButHidden rfl rfl⟩
    · exact ⟨_, exec_decBegin_of_fits hr, hm.sameButHidden rfl rfl⟩
  | decInt signed order n =>
    rcases execDecInt_cases signed order n s with ⟨hn, e⟩ | ⟨hn, hd, e⟩ | ⟨hn, hd, hr, e⟩ | ⟨hn, hd, hr, e⟩ <;>
      rw [h] at e <;> cases e
    · exact ⟨_, exec_decInt_of_too_wide signed order hn, hm.sameButHidden rfl rfl⟩
    · exact ⟨_, exec_decInt_of_closed signed order hn hd, hm.sameButHidden rfl rfl⟩
    · exact ⟨_, exec_decInt_of_remaining_lt signed order hn hd hr, hm.sameButHidden rfl rfl⟩
    · exact ⟨_, exec_decInt_of_le_remaining signed order hn hd hr, hm.sameButHidden rfl rfl⟩
  | decAscii w =>
    rcases execDecAscii_cases w s with ⟨⟨h3, h4⟩, e⟩ | ⟨hw, hd, e⟩ | ⟨hw, hd, hr, e⟩ | ⟨hw, hd, hr, hb, e⟩ |
      ⟨hw, hd, hr, hb, e⟩ <;> rw [h] at e <;> cases e
    · exact ⟨_, exec_decAscii_of_bad_width h3 h4, hm.sameButHidden rfl rfl⟩
    · exact ⟨_, exec_decAscii_of_closed hw hd, hm.sameButHidden rfl rfl⟩
    · exact ⟨_, exec_decAscii_of_remaining_lt hw hd hr, hm.sameButHidden rfl rfl⟩
    · exact ⟨_, exec_decAscii_of_beyond hw hd hr hb, hm.sameButHidden rfl rfl⟩
    · exact ⟨_, exec_decAscii_of_fits hw hd hr hb, hm.sameButHidden rfl rfl⟩

end Operations

/-- A write to CMD carries a word; any other write does not. -/
theorem write_cmd_or_other (sp idx : Word) (v : Nat) :
    (∃ w : Word, sp = 0 ∧ idx = 0 ∧ v = w.toNat) ∨ ¬(sp.toNat = 0 ∧ idx.toNat = 0 ∧ v < 2 ^ 16) := by
  by_cases hc : sp.toNat = 0 ∧ idx.toNat = 0 ∧ v < 2 ^ 16
  · obtain ⟨hsp, hidx, hv⟩ := hc
    exact .inl ⟨BitVec.ofNat 16 v, BitVec.eq_of_toNat_eq hsp, BitVec.eq_of_toNat_eq hidx, (Nat.mod_eq_of_lt hv).symm⟩
  · exact .inr hc

/-- Settles O42: event by event, the two states serve the same event in the same way. -/
theorem hiddenPacketBytesUnobservable : Obligations.HiddenPacketBytesUnobservable := by
  intro s s₂ t hsame hstep
  obtain ⟨m, rfl, hm⟩ := sameButHidden_iff.1 hsame
  have hrest (rest : List HostEvent) (a : Option Nat) : AgreesBelow { s with queue := rest, answer := a } m := hm
  cases hq : s.queue with
  | nil =>
    rw [idleKeepsState s hq] at hstep
    cases hstep
    exact ⟨_, idleKeepsState (s.withPbuf m) hq, hsame⟩
  | cons e rest =>
    cases e with
    | reset =>
      rw [step_reset hq] at hstep
      cases hstep
      exact ⟨_, step_reset (s := s.withPbuf m) hq, rfl, fun _ _ => rfl⟩
    | read sp idx =>
      rw [step_read hq] at hstep
      cases hstep
      exact ⟨_, step_read (s := s.withPbuf m) hq, (hrest rest s.answer).hostRead sp idx⟩
    | write sp idx v =>
      rcases write_cmd_or_other sp idx v with ⟨w, rfl, rfl, rfl⟩ | hc
      · cases hd : decode w with
        | ok i =>
          rw [step_write_cmd hd hq] at hstep
          rw [step_write_cmd (s := s.withPbuf m) hd hq]
          exact (hrest rest none).exec hstep
        | error d =>
          rw [step_write_illegal hd hq] at hstep
          cases hstep
          exact ⟨_, step_write_illegal (s := s.withPbuf m) hd hq, hm.sameButHidden rfl rfl⟩
      · rw [step_write hq hc] at hstep
        cases hstep
        exact ⟨_, step_write (s := s.withPbuf m) hq hc, (hrest rest s.answer).hostWrite sp idx v⟩

end Sys2Proof.Machine
